-- ==== Sys2Proof/Word.lean ====
section
/-! DEFINITION. The word types of the IL2P packet-decode core (00_scope.md rule R17): a byte is 8 bits, a
register or command word 32 bits, bit 0 the least significant; an FCS is 16 bits (rule R45), the descrambler
state and its seed are 9 bits (rules R41, R170). -/

namespace Sys2Proof

/-- A byte: one buffer cell, one symbol of a Reed-Solomon block, one element of GF(256) (R17, R130). -/
abbrev Byte := BitVec 8

/-- A 32-bit word: a register, a command word, the data of one host access (R17, R73, R100). -/
abbrev Word := BitVec 32

/-- A 16-bit frame check sequence (R45, R193, R196). -/
abbrev Half := BitVec 16

/-- A 9-bit descrambler state or seed (R41, R170). -/
abbrev Lfsr := BitVec 9

end Sys2Proof
end

