-- ==== Sys2Proof/Syntax.lean ====
section
/-! DEFINITION. The commands of the block: one constructor per row of spec/opcode_table.json (30_encoding.md rules
R101 to R103). A command is the hardware's "instruction" (00_scope.md rule R3). -/

namespace Sys2Proof

/-- One command, its operands as the command word carries them: `n` is the LEN field (R103), `np` the NP bit (R102). -/
inductive Instr where
  /-- DECODE_FRAME: the whole pipeline on the RawFrame in IN (R220). -/
  | decodeFrame
  /-- RS_DECODE_HDR: RS(15, 2) decode of `IN[0..14]` (R145). -/
  | rsDecodeHdr
  /-- RS_DECODE_PAY n: RS(n + 16, 16) decode of `IN[0..n+15]` (R146). -/
  | rsDecodePay (n : BitVec 8)
  /-- DESCRAMBLE n: `IN[0..n-1]` into `OUT[0..n-1]` (R177). -/
  | descramble (n : BitVec 8)
  /-- VALIDATE n: scramble `OUT[0..n-1]` and compare with `IN[0..n-1]` (R178). -/
  | validate (n : BitVec 8)
  /-- LENGTH_DECODE: the 10-bit length of the header plaintext `IN[0..12]` (R191). -/
  | lengthDecode
  /-- HAMMING_CRC: the 4 Hamming-coded bytes `IN[0..3]` into FCS.RX (R194). -/
  | hammingCrc
  /-- CRC_CHECK n (`np = false`) or CRC_CHECK.NP n (`np = true`) (R199). -/
  | crcCheck (np : Bool) (n : BitVec 8)
deriving DecidableEq, Repr

end Sys2Proof
end

