-- ==== Sys2Proof/WellFormed.lean ====
section
/-! DEFINITION. Which commands a legal word can carry (30_encoding.md rule R104). The operand types already bound
LEN to 8 bits and NP to one; the one further bound is that of RS_DECODE_PAY. -/

namespace Sys2Proof

/-- R104's LEN column: RS_DECODE_PAY takes 1 to 239, every other counted command the whole 8-bit range. -/
def Instr.wf : Instr → Bool
  | .rsDecodePay n => decide (1 ≤ n.toNat ∧ n.toNat ≤ 239)
  | .decodeFrame => true
  | .rsDecodeHdr => true
  | .descramble _ => true
  | .validate _ => true
  | .lengthDecode => true
  | .hammingCrc => true
  | .crcCheck _ _ => true

end Sys2Proof
end

