-- ==== Sys2Proof/Decode.lean ====
section
/-! DEFINITION. The decoder, total on every 32-bit word and rejecting by name (30_encoding.md rules R100 to R106),
and after it the encoder, written from the same tables (R100, R101, R108). -/

namespace Sys2Proof

/-- Why a word is illegal (R104). The block reports only `IllegalCommand` (R261): the names are for the reader. -/
inductive Illegal where
  /-- A nonzero bit among RSV0 (7:5) or RSV1 (31:16). -/
  | reservedBits
  /-- OP 0x0 or 0x9 to 0xF. -/
  | reservedOpcode
  /-- NP = 1 on a command other than CRC_CHECK (R102). -/
  | npNotZero
  /-- A nonzero LEN on a command that takes no count (R103). -/
  | lenNotZero
  /-- RS_DECODE_PAY with LEN 0 or LEN above 239. -/
  | lenOutOfRange
deriving DecidableEq, Repr

/-! ### The fields of a command word (R100) -/

/-- OP, bits 3:0. -/
def opField (w : Word) : BitVec 4 := w.extractLsb' 0 4

/-- NP, bit 4. -/
def npField (w : Word) : Bool := w.getLsbD 4

/-- RSV0, bits 7:5, must be 000. -/
def rsv0Field (w : Word) : BitVec 3 := w.extractLsb' 5 3

/-- LEN, bits 15:8. -/
def lenField (w : Word) : BitVec 8 := w.extractLsb' 8 8

/-- RSV1, bits 31:16, must be 0x0000. -/
def rsv1Field (w : Word) : BitVec 16 := w.extractLsb' 16 16

/-- A command with a LEN operand and no NP: NP must be 0 (R102, R104). -/
def decodeCounted (w : Word) (i : Instr) : Except Illegal Instr :=
  if npField w then .error .npNotZero else .ok i

/-- A command without operands: NP and LEN must be 0 (R102 to R104). -/
def decodeBare (w : Word) (i : Instr) : Except Illegal Instr :=
  if npField w then .error .npNotZero
  else if lenField w ≠ 0 then .error .lenNotZero
  else .ok i

/-- RS_DECODE_PAY: NP must be 0 and LEN in 1 to 239 (R104). -/
def decodePay (w : Word) : Except Illegal Instr :=
  if npField w then .error .npNotZero
  else if (Instr.rsDecodePay (lenField w)).wf then .ok (.rsDecodePay (lenField w))
  else .error .lenOutOfRange

/-- The decoder of R106: the command a word stands for, or why it is illegal. -/
def decode (w : Word) : Except Illegal Instr :=
  if rsv0Field w ≠ 0 ∨ rsv1Field w ≠ 0 then .error .reservedBits
  else match (opField w).toNat with
    | 1 => decodeBare w .decodeFrame
    | 2 => decodeBare w .rsDecodeHdr
    | 3 => decodePay w
    | 4 => decodeCounted w (.descramble (lenField w))
    | 5 => decodeCounted w (.validate (lenField w))
    | 6 => decodeBare w .lengthDecode
    | 7 => decodeBare w .hammingCrc
    | 8 => .ok (.crcCheck (npField w) (lenField w))
    | _ => .error .reservedOpcode

/-- The instruction the decoder reads from an opcode-table word of `nbits` bits. A command is one 32-bit word
(R100), so the bits above `nbits` are 0. -/
def decodeTableWord (nbits w : Nat) : Option Instr :=
  match decode (BitVec.ofNat 32 (w % 2 ^ nbits)) with
  | .ok i => some i
  | .error _ => none

/-! ### The encoder -/

/-- The pattern `0000000000000000 LLLLLLLL 000N OOOO` of R100. -/
def commandWord (op : BitVec 4) (np : Bool) (len : BitVec 8) : Word :=
  0#16 ++ len ++ 0#3 ++ BitVec.ofBool np ++ op

/-- The command word of an instruction (R101, R108). -/
def encode : Instr → Word
  | .decodeFrame => commandWord 0x1 false 0
  | .rsDecodeHdr => commandWord 0x2 false 0
  | .rsDecodePay n => commandWord 0x3 false n
  | .descramble n => commandWord 0x4 false n
  | .validate n => commandWord 0x5 false n
  | .lengthDecode => commandWord 0x6 false 0
  | .hammingCrc => commandWord 0x7 false 0
  | .crcCheck np n => commandWord 0x8 np n

end Sys2Proof
end

