-- ==== Sys2Proof/Config.lean ====
section
/-! DEFINITION. What one instance of the block fixes, and the values the spec leaves open.

`Params` holds the parameters that 00_scope.md rules R10 to R15 ask a model to take as arguments. They are plain
data, carried by `State.par`, which no step changes: a statement about every state is thereby a statement about
every choice of parameters (log entry 1). The opaque constants are the free values: a parameter the spec gives no
default for, and every `draw` of the spec (log entries 2 to 6). Nothing in Lean can evaluate one. -/

namespace Sys2Proof.Config

/-- `HDR_OFF`, the frame index of the first header-block byte: legal values 1 and 2 (R10). -/
inductive HdrOff where
  | one
  | two
deriving DecidableEq, Repr

/-- `RS_BEYOND_T`, what the RS decoder answers for a block further than `t` from every codeword (R14). -/
inductive BeyondT where
  | fail
  | any
deriving DecidableEq, Repr

/-- The implementation parameters of 00_scope.md §4, fixed for one machine. -/
structure Params where
  /-- `HDR_OFF` (R10). -/
  hdrOff : HdrOff
  /-- `AX25_PREFIX`, the 16 bytes put before the payload in the CRC (R11, R197). -/
  ax25Prefix : Vector Byte 16
  /-- `HAMMING_DECODE`, a total table from 7-bit values to nibbles (R12, R192). -/
  hammingDecode : Vector (BitVec 4) 128
  /-- `RS_PRIM_POLY`, the field polynomial of GF(256), with its `z^8` coefficient at bit 8 (R13). -/
  rsPrimPoly : BitVec 9
  /-- `RS_FCR`, the exponent of the first root of the generator polynomial (R13, R133). -/
  rsFcr : Nat
  /-- `RS_ALPHA`, the primitive element (R13, R130). -/
  rsAlpha : Byte
  /-- `RS_BEYOND_T` (R14). -/
  rsBeyondT : BeyondT
  /-- `BASE`, the bus address of the 4 KiB window (R15). -/
  base : Nat
deriving DecidableEq, Repr

/-- The device's own `AX25_PREFIX`: the spec gives its length and no value (R11, D14). -/
opaque ax25Prefix : Vector Byte 16

/-- The platform's own `BASE`: the spec gives no value (R15, D17). -/
opaque base : Nat

/-- `draw v : 8 bits`: what a buffer byte never written since reset reads as, for draw number and window offset
(R292, U1). -/
opaque freeByte (draw offset : Nat) : Byte

/-- `draw v : 32 bits`: the data of a host read the spec leaves open (R262, R296, U2, U3, U4). -/
opaque freeWord (draw : Nat) : Word

/-- Under `RS_BEYOND_T = any`: whether the draw is FAIL, for draw number and parity length (R140, U6). -/
opaque beyondFails (draw parity : Nat) : Bool

/-- Under `RS_BEYOND_T = any`: data byte `index` of the drawn codeword (R140, U6). -/
opaque beyondByte (draw parity index : Nat) : Byte

/-- Under `RS_BEYOND_T = any`: the drawn correction count before it is brought into `1 … t` (R140, U6). -/
opaque beyondCount (draw parity : Nat) : Nat

/-- How many host inputs are served between a command's acceptance and its completion (R299, U7). -/
opaque completionWait (draw : Nat) : Nat

end Sys2Proof.Config
end

