-- ==== Sys2Proof/Machine/Defaults.lean ====
section
/-! DEFINITION. The parameter values the spec gives as defaults (00_scope.md rules R10 to R15, 42_crc.md rule R195).
AX25_PREFIX and BASE have no default in the spec: their opaque constants stand here. -/

namespace Sys2Proof.Machine

open Sys2Proof.Config

/-- The default `HAMMING_DECODE` table of R195, row by row: row `v[6:4]`, column `v[3:0]`. -/
def hammingRows : List (BitVec 4) :=
  [0x0, 0x0, 0x0, 0x3, 0x0, 0x5, 0xE, 0x7, 0x0, 0x9, 0xE, 0xB, 0xE, 0xD, 0xE, 0xE] ++
  [0x0, 0x3, 0x3, 0x3, 0x4, 0xD, 0x6, 0x3, 0x8, 0xD, 0xA, 0x3, 0xD, 0xD, 0xE, 0xD] ++
  [0x0, 0x5, 0x2, 0xB, 0x5, 0x5, 0x6, 0x5, 0x8, 0xB, 0xB, 0xB, 0xC, 0x5, 0xE, 0xB] ++
  [0x8, 0x1, 0x6, 0x3, 0x6, 0x5, 0x6, 0x6, 0x8, 0x8, 0x8, 0xB, 0x8, 0xD, 0x6, 0xF] ++
  [0x0, 0x9, 0x2, 0x7, 0x4, 0x7, 0x7, 0x7, 0x9, 0x9, 0xA, 0x9, 0xC, 0x9, 0xE, 0x7] ++
  [0x4, 0x1, 0xA, 0x3, 0x4, 0x4, 0x4, 0x7, 0xA, 0x9, 0xA, 0xA, 0x4, 0xD, 0xA, 0xF] ++
  [0x2, 0x1, 0x2, 0x2, 0xC, 0x5, 0x2, 0x7, 0xC, 0x9, 0x2, 0xB, 0xC, 0xC, 0xC, 0xF] ++
  [0x1, 0x1, 0x2, 0x1, 0x4, 0x1, 0x6, 0xF, 0x8, 0x1, 0xA, 0xF, 0xC, 0xF, 0xF, 0xF]

/-- The default `HAMMING_DECODE` (R12, R195). -/
def hammingDefault : Vector (BitVec 4) 128 := ⟨hammingRows.toArray, rfl⟩

/-- Every parameter at the spec's default; AX25_PREFIX and BASE, which have none, at their free values. -/
def defaultParams : Params where
  hdrOff := .two
  ax25Prefix := Config.ax25Prefix
  hammingDecode := hammingDefault
  rsPrimPoly := 0x11D
  rsFcr := 0
  rsAlpha := 0x02
  rsBeyondT := .fail
  base := Config.base

end Sys2Proof.Machine
end

