-- ==== Sys2Proof/Machine/State.lean ====
section
/-! DEFINITION. The state of the block as plain data (10_state.md, 20_memory.md, 70_reset_and_hazards.md §1), the
reasons a step can stop, and the state after reset. STATUS.BUSY is stored once, as the engine's own state (R49), and
the STATUS word is computed from both (Machine/Flags.lean). -/

namespace Sys2Proof.Machine

open Sys2Proof.Config

/-- STATUS.REASON (R36, R264): the closed list of outcome codes. -/
inductive Reason where
  | none
  | badHeader
  | scramblerMismatch
  | invalidLength
  | insufficientBytes
  | truncatedHeader
  | payloadFecFail
  | crcMismatch
  | illegalCommand
deriving DecidableEq, Repr

/-- The STATE field of HDR_CORR and PAY_CORR (R42); the code 3 is never produced. -/
inductive CorrState where
  | notAttempted
  | decoded
  | failed
deriving DecidableEq, Repr

/-- HDR_CORR or PAY_CORR (R42, R43). -/
structure Corr where
  state : CorrState
  count : BitVec 8
deriving DecidableEq, Repr

/-- PAYLOAD_COUNT (R44). -/
structure PayloadCount where
  valid : Bool
  length : BitVec 10
deriving DecidableEq, Repr

/-- FCS (R45): `rx` is RX, the `received_fcs`, and `computed` is CALC, the `computed_fcs`. -/
structure Fcs where
  rx : Half
  computed : Half
deriving DecidableEq, Repr

/-- The fields of STATUS (R34) except BUSY, which is the engine's state (R49). -/
structure Status where
  done : Bool
  cmdErr : Bool
  hazard : Bool
  reason : Reason
  scramblerOk : Bool
  crcOk : Bool
  record : Bool
  payloadValid : Bool
deriving DecidableEq, Repr

/-- The engine (R49): IDLE, or BUSY with the command word PEND it executes. `wait` is the model's own: how many host
inputs are still served before the completion step (R299, log entry 6). -/
inductive Engine where
  | idle
  | busy (pend : Word) (wait : Nat)
deriving DecidableEq, Repr

/-- One event from outside the block: a host bus access (R73, R75) at a bus address, of a width in bits, or the
reset input (R290). -/
inductive Input where
  | read (addr : Nat) (bits : Nat)
  | write (addr : Nat) (bits : Nat) (data : Word)
  | reset
deriving DecidableEq, Repr

/-- What the block answers on the bus: a data word, an acknowledged write, or the error response of R262. -/
inductive Response where
  | data (w : Word)
  | written
  | readError (w : Word)
  | writeError
deriving DecidableEq, Repr

/-- Everything the spec gives the machine, and after it the model's own fields. -/
structure State where
  /-- CMD (R33). -/
  cmd : Word
  /-- STATUS (R34) without BUSY. -/
  status : Status
  /-- SEED bits 8:0 (R41). -/
  seed : Lfsr
  /-- HDR_CORR (R42). -/
  hdrCorr : Corr
  /-- PAY_CORR (R43). -/
  payCorr : Corr
  /-- PAYLOAD_COUNT (R44). -/
  payloadCount : PayloadCount
  /-- FCS (R45). -/
  fcs : Fcs
  /-- OUT_LEN bits 8:0 (R46). -/
  outLen : BitVec 9
  /-- The IN and OUT buffers (R71, R72), keyed by window offset. A byte never written since reset has no entry. -/
  mem : List Host.Cell
  /-- ENG and PEND (R49); ENG = BUSY is STATUS.BUSY. -/
  eng : Engine
  /-- MODEL: the parameters of this machine (R10 to R15); no step changes them. -/
  par : Params
  /-- MODEL: the host inputs not yet served, the next one first (R81). -/
  inputs : List Input
  /-- MODEL: the bus responses given so far, the oldest first. -/
  outbox : List Response
  /-- MODEL: the number of the next draw; each step that may draw advances it. -/
  draws : Nat
deriving DecidableEq, Repr

/-- Why the machine stops. No command raises one. -/
inductive Fault where
  /-- Raised by the bus when an access lies outside the block's 4 KiB window (R70): no address of the block. Safe:
  the machine stops where the block would not take part. -/
  | outsideWindow (addr : Nat)
  /-- Raised by the engine when PEND is an illegal word. Only legal words are accepted (R33), so no state that meets
  `State.Inv` raises it. Safe: the machine stops. -/
  | undecodablePend (pend : Word)
deriving DecidableEq, Repr

/-- Why an instruction has no meaning. -/
inductive Refusal where
  /-- An instruction without a meaning yet, by its mnemonic; raised only by an arm of `exec`, and by none now.
  Safe: the machine stops. -/
  | notModelled (mnemonic : String)
deriving DecidableEq, Repr

/-- The block with parameters `par` right after reset (R32, R290): SEED 0x1F0, every other register 0, the engine
IDLE, no buffer byte written (R292). -/
def State.resetWith (par : Params) : State where
  cmd := 0
  status :=
    { done := false, cmdErr := false, hazard := false, reason := .none, scramblerOk := false, crcOk := false,
      record := false, payloadValid := false }
  seed := 0x1F0
  hdrCorr := { state := .notAttempted, count := 0 }
  payCorr := { state := .notAttempted, count := 0 }
  payloadCount := { valid := false, length := 0 }
  fcs := { rx := 0, computed := 0 }
  outLen := 0
  mem := []
  eng := .idle
  par := par
  inputs := []
  outbox := []
  draws := 0

/-- The machine right after reset, with the spec's default parameters. -/
def State.reset : State := State.resetWith defaultParams

end Sys2Proof.Machine
end

