-- ==== Sys2Proof/Machine/Ops.lean ====
section
/-! DEFINITION. The named operations over memory and registers. Memory is a sorted list of (window offset, byte)
entries for the bytes of IN and OUT written since reset (20_memory.md rules R70 to R72, 70_reset_and_hazards.md rule
R292). The block has no trap entry and no return from one (60_exceptions.md rule R269); what stands in their place is
here, once each: the rejection of an illegal word, the hazard mark, and the discard of a packet. -/

namespace Sys2Proof.Machine

open Sys2Proof.Config

/-! ### The buffers as memory -/

/-- The window offset of `IN[0]` (R71). -/
def inBase : Nat := 0x100

/-- The window offset of `OUT[0]` (R72). -/
def outBase : Nat := 0x200

/-- The window offset after `OUT[255]`. -/
def bufferEnd : Nat := 0x300

/-- The canonical form: offsets strictly rising, each a buffer byte. An unlisted byte was never written and reads as a
free value, so no entry can equal it. -/
abbrev Memory.wf (m : List Host.Cell) : Prop :=
  m.Pairwise (fun a b => a.1 < b.1) ∧ ∀ c ∈ m, inBase ≤ c.1 ∧ c.1 < bufferEnd

/-- The byte written at offset `a`, if one was written since reset (R292). -/
def Memory.get? : List Host.Cell → Nat → Option Byte
  | [], _ => none
  | (b, v) :: m, a => if a = b then some v else Memory.get? m a

/-- Memory with byte `v` at offset `a`. -/
def Memory.put : List Host.Cell → Nat → Byte → List Host.Cell
  | [], a, v => [(a, v)]
  | (b, u) :: m, a, v =>
    if a < b then (a, v) :: (b, u) :: m
    else if a = b then (a, v) :: m
    else (b, u) :: Memory.put m a v

/-- Memory with the bytes `vs` at offsets `a`, `a + 1`, …. -/
def Memory.putList : List Host.Cell → Nat → List Byte → List Host.Cell
  | m, _, [] => m
  | m, a, v :: vs => Memory.putList (Memory.put m a v) (a + 1) vs

/-- The byte at offset `a` as read in this step: the byte written, or a draw of this step (R292). -/
def byteAt (s : State) (a : Nat) : Byte := (Memory.get? s.mem a).getD (Config.freeByte s.draws a)

/-- The `n` bytes from offset `a`. -/
def bytesAt (s : State) (a n : Nat) : List Byte := (List.range n).map fun i => byteAt s (a + i)

/-! ### Command issue and completion -/

/-- Acceptance of the legal word `w` (R33, R35): CMD and PEND hold it, the flags of R35 are set, the engine is BUSY for a
drawn number of host inputs (R299). -/
def acceptCommand (w : Word) (s : State) : State :=
  { s with
    cmd := w
    status :=
      { s.status with done := false, cmdErr := false, reason := .none, record := false, payloadValid := false }
    eng := .busy w (Config.completionWait s.draws) }

/-- `raise IllegalCommand` (R261): the illegal word stands in CMD, CMD_ERR, DONE and REASON say so, nothing else
changes. -/
def rejectCommand (w : Word) (s : State) : State :=
  { s with cmd := w, status := { s.status with done := true, cmdErr := true, reason := .illegalCommand } }

/-- A write of `w` to CMD while BUSY = 0 (R33, R266). -/
def issueCommand (w : Word) (s : State) : State :=
  match decode w with
  | .ok _ => acceptCommand w s
  | .error _ => rejectCommand w s

/-- `fault Hazard` (R263): the sticky bit is set. -/
def markHazard (s : State) : State := { s with status := { s.status with hazard := true } }

/-- The end of every command (R35): `BUSY <- 0; DONE <- 1`; the step has used its draw. -/
def complete (s : State) : State :=
  { s with status := { s.status with done := true }, eng := .idle, draws := s.draws + 1 }

/-! ### Result writes -/

/-- `STATUS.REASON <- r` (R36). -/
def setReason (r : Reason) (s : State) : State := { s with status := { s.status with reason := r } }

/-- `OUT[0 … len-1] <- bs; OUT_LEN <- len` (R46, R72). -/
def writeOut (bs : List Byte) (s : State) : State :=
  { s with mem := Memory.putList s.mem outBase bs, outLen := BitVec.ofNat 9 bs.length }

/-- R221: what DECODE_FRAME clears before its first stage. OUT is not cleared. -/
def clearResults (s : State) : State :=
  { s with
    hdrCorr := { state := .notAttempted, count := 0 }
    payCorr := { state := .notAttempted, count := 0 }
    payloadCount := { valid := false, length := 0 }
    fcs := { rx := 0, computed := 0 }
    outLen := 0
    status := { s.status with scramblerOk := false, crcOk := false } }

/-- `discard r` (R234): REASON holds the code, there is no record; everything else stands. -/
def discard (r : Reason) (s : State) : State :=
  { s with status := { s.status with reason := r, record := false, payloadValid := false } }

/-! ### Bus responses and reset -/

/-- The block answers `r` on the bus; the step has used its draw. -/
def respond (r : Response) (s : State) : State :=
  { s with outbox := s.outbox ++ [r], draws := s.draws + 1 }

/-- The reset input (R290, R291): every register at its reset value, the engine IDLE, a command in progress abandoned,
no buffer byte written. What lies outside the block (parameters, inputs to come, responses given, draws used) stays. -/
def resetBlock (s : State) : State :=
  { State.resetWith s.par with inputs := s.inputs, outbox := s.outbox, draws := s.draws + 1 }

end Sys2Proof.Machine
end

