-- ==== Sys2Proof/Machine/Flags.lean ====
section
/-! DEFINITION. The registers as the words a host reads: STATUS and its flags (10_state.md rules R34 to R40), and the
result registers (rules R41 to R46). -/

namespace Sys2Proof.Machine

/-- The REASON codes (R264). -/
def reasonCode : Reason → BitVec 8
  | .none => 0x00
  | .badHeader => 0x01
  | .scramblerMismatch => 0x02
  | .invalidLength => 0x03
  | .insufficientBytes => 0x04
  | .truncatedHeader => 0x05
  | .payloadFecFail => 0x06
  | .crcMismatch => 0x07
  | .illegalCommand => 0x0F

/-- The STATE codes of HDR_CORR and PAY_CORR (R42). -/
def corrStateCode : CorrState → BitVec 2
  | .notAttempted => 0
  | .decoded => 1
  | .failed => 2

/-- `{STATE = 1, COUNT = k}` (R42). -/
def corrDecoded (k : Nat) : Corr := { state := .decoded, count := BitVec.ofNat 8 k }

/-- `{STATE = 2, COUNT = 0}` (R42). -/
def corrFailed : Corr := { state := .failed, count := 0 }

/-- STATUS.BUSY (R49). -/
def busy (s : State) : Bool :=
  match s.eng with
  | .idle => false
  | .busy _ _ => true

/-- STATUS as a host reads it while BUSY = 0, bit 31 first (R34). -/
def statusWord (s : State) : Word :=
  0#12 ++ BitVec.ofBool s.status.payloadValid ++ BitVec.ofBool s.status.record ++ BitVec.ofBool s.status.crcOk ++
    BitVec.ofBool s.status.scramblerOk ++ reasonCode s.status.reason ++ 0#4 ++ BitVec.ofBool s.status.hazard ++
    BitVec.ofBool s.status.cmdErr ++ BitVec.ofBool (busy s) ++ BitVec.ofBool s.status.done

/-- STATUS as a host reads it while BUSY = 1 (R296): DONE = 0, BUSY = 1, CMD_ERR = 0, the current HAZARD, and bits 19:8
as the draw `v` gives them; the reserved bits read 0 (R34). -/
def busyStatusWord (s : State) (v : Word) : Word :=
  0#12 ++ v.extractLsb' 8 12 ++ 0#4 ++ BitVec.ofBool s.status.hazard ++ 0#1 ++ 1#1 ++ 0#1

/-- SEED: bits 31:9 read 0 (R41). -/
def seedWord (s : State) : Word := s.seed.setWidth 32

/-- HDR_CORR or PAY_CORR: STATE at 9:8, COUNT at 7:0 (R42, R43). -/
def corrWord (c : Corr) : Word := 0#22 ++ corrStateCode c.state ++ c.count

/-- PAYLOAD_COUNT: VALID at 16, LENGTH at 9:0 (R44). -/
def payloadCountWord (c : PayloadCount) : Word := 0#15 ++ BitVec.ofBool c.valid ++ 0#6 ++ c.length

/-- FCS: CALC at 31:16, RX at 15:0 (R45). -/
def fcsWord (f : Fcs) : Word := f.computed ++ f.rx

/-- OUT_LEN: bits 31:9 read 0 (R46). -/
def outLenWord (s : State) : Word := s.outLen.setWidth 32

end Sys2Proof.Machine
end

