-- ==== Sys2Proof/Machine/Bus.lean ====
section
/-! DEFINITION. The host's side of the block: bus accesses by window offset (10_state.md §2, 20_memory.md §2 and §3,
60_exceptions.md rules R261 to R266, 70_reset_and_hazards.md rules R295 and R296), the reset input, and which agent
acts next (R299). -/

namespace Sys2Proof.Machine

open Sys2Proof.Config

/-- The offset in the 4 KiB window at BASE that a bus address names, if it names one (R15, R70). -/
def windowOffset (par : Params) (addr : Nat) : Option Nat :=
  if par.base ≤ addr ∧ addr < par.base + 0x1000 then some (addr - par.base) else none

/-- The access is one that gets `BusError` (R75, R262): not 32 bits wide, or offset bits 1:0 not 00. -/
def busError (off bits : Nat) : Bool := bits != 32 || off % 4 != 0

/-! ### Reads -/

/-- The little-endian buffer word at offset `off` (R74). -/
def bufferWord (s : State) (off : Nat) : Word :=
  byteAt s (off + 3) ++ byteAt s (off + 2) ++ byteAt s (off + 1) ++ byteAt s off

/-- What an aligned read of offset `off` returns (R32, R47, R74, R296). -/
def registerRead (s : State) (off : Nat) : Word :=
  let v := Config.freeWord s.draws
  if off = 0x000 then s.cmd
  else if off = 0x004 then (if busy s then busyStatusWord s v else statusWord s)
  else if off = 0x008 then seedWord s
  else if off = 0x00C then (if busy s then v else corrWord s.hdrCorr)
  else if off = 0x010 then (if busy s then v else corrWord s.payCorr)
  else if off = 0x014 then (if busy s then v else payloadCountWord s.payloadCount)
  else if off = 0x018 then (if busy s then v else fcsWord s.fcs)
  else if off = 0x01C then (if busy s then v else outLenWord s)
  else if inBase ≤ off ∧ off < outBase then bufferWord s off
  else if outBase ≤ off ∧ off < bufferEnd then (if busy s then v else bufferWord s off)
  else 0

/-- A host read of `bits` bits at offset `off`: it changes no register and no buffer byte (R77). -/
def hostRead (off bits : Nat) (s : State) : State :=
  if busError off bits then respond (.readError (Config.freeWord s.draws)) s
  else respond (.data (registerRead s off)) s

/-! ### Writes -/

/-- A write to SEED while BUSY = 0 (R41). -/
def writeSeed (w : Word) (s : State) : State := { s with seed := w.setWidth 9 }

/-- A write to the IN word at offset `off` while BUSY = 0, little-endian (R74). -/
def writeInWord (off : Nat) (w : Word) (s : State) : State :=
  { s with
    mem := Memory.putList s.mem off
      [w.extractLsb' 0 8, w.extractLsb' 8 8, w.extractLsb' 16 8, w.extractLsb' 24 8] }

/-- An aligned write of offset `off` while BUSY = 0: CMD, SEED and IN take it, every other offset ignores it
(R32, R47). -/
def registerWrite (off : Nat) (w : Word) (s : State) : State :=
  if off = 0x000 then issueCommand w s
  else if off = 0x008 then writeSeed w s
  else if inBase ≤ off ∧ off < outBase then writeInWord off w s
  else s

/-- A host write of `bits` bits at offset `off`, in the order of checks of R266. -/
def hostWrite (off bits : Nat) (w : Word) (s : State) : State :=
  if busError off bits then respond .writeError s
  else if busy s then respond .written (markHazard s)
  else respond .written (registerWrite off w s)

/-! ### Serving an input -/

/-- The effect of one host input (R73, R290). -/
def serveInput (i : Input) (s : State) : Host.Outcome State Fault Refusal :=
  match i with
  | .reset => .next (resetBlock s)
  | .read addr bits =>
    match windowOffset s.par addr with
    | some off => .next (hostRead off bits s)
    | none => .fault (.outsideWindow addr)
  | .write addr bits w =>
    match windowOffset s.par addr with
    | some off => .next (hostWrite off bits w s)
    | none => .fault (.outsideWindow addr)

/-! ### Which agent acts next -/

/-- Who acts in the next step: the engine completes PEND, the host input `i` is served in the state given, or nothing
is left to do. -/
inductive Turn where
  | engine (pend : Word)
  | host (i : Input) (s : State)
  | quiet
deriving DecidableEq, Repr

/-- A BUSY engine completes once its drawn number of host inputs is served, or when none is left (R299); an idle block
serves the next host input (R81). -/
def turn (s : State) : Turn :=
  match s.eng, s.inputs with
  | .busy pend (k + 1), i :: rest => .host i { s with inputs := rest, eng := .busy pend k }
  | .busy pend _, _ => .engine pend
  | .idle, i :: rest => .host i { s with inputs := rest }
  | .idle, [] => .quiet

end Sys2Proof.Machine
end

