-- ==== Sys2Proof/Machine/Operands.lean ====
section
/-! DEFINITION. Where each command finds its operands (30_encoding.md rule R103, 20_memory.md rules R71, R72 and R78,
43_frame_decode.md rule R222). -/

namespace Sys2Proof.Machine

open Sys2Proof.Config

/-- `IN[0 … n-1]`, the operand origin of every command (R71). -/
def readIn (s : State) (n : Nat) : List Byte := bytesAt s inBase n

/-- `OUT[0 … n-1]`, the plaintext operand of VALIDATE (R72, R178). -/
def readOut (s : State) (n : Nat) : List Byte := bytesAt s outBase n

/-- HDR_OFF as a frame index (R10). -/
def hdrOffset (par : Params) : Nat :=
  match par.hdrOff with
  | .one => 1
  | .two => 2

/-- `base = HDR_OFF + 15`, the frame index of the payload block (R222). -/
def payloadBase (par : Params) : Nat := hdrOffset par + 15

/-- `B[off … off + n - 1]` of a byte sequence (R17). -/
def slice (f : List Byte) (off n : Nat) : List Byte := (f.drop off).take n

/-- The frame `F = IN[0 … L-1]` with `L = IN[0] + 1` (R222). -/
def rawFrame (s : State) : List Byte := readIn s ((byteAt s inBase).toNat + 1)

end Sys2Proof.Machine
end

