-- ==== Sys2Proof/Machine/Scrambler.lean ====
section
/-! DEFINITION. The self-synchronizing descrambler, the scrambler that validates it, and the comparison (41_descrambler.md
§1, rules R170 to R174). Bits are taken most-significant first within each byte (R76, R171). -/

namespace Sys2Proof.Machine

/-- `DS := ((DS >> 1) ^ (c << 8) ^ (c << 3)) & 0x1FF` for the scrambled bit `c` (R171, R172). -/
def lfsrNext (ds : Lfsr) (c : Bool) : Lfsr :=
  (ds >>> 1) ^^^ (if c then 0x100 else 0) ^^^ (if c then 0x008 else 0)

/-- The bits of a byte, most significant first (R171). -/
def bitsOfByte (b : Byte) : List Bool := [7, 6, 5, 4, 3, 2, 1, 0].map fun i => b.getLsbD i

/-- The byte with these bits, most significant first. -/
def byteOfBits (l : List Bool) : Byte := l.foldl (fun acc c => (acc <<< 1) ||| (if c then 1 else 0)) 0

/-- The bits of a byte sequence in the order the scrambler takes them. -/
def bitsOfBytes (x : List Byte) : List Bool := x.flatMap bitsOfByte

/-- The `n` bytes that the first `8n` bits of `l` make. -/
def bytesOfBits : Nat → List Bool → List Byte
  | 0, _ => []
  | n + 1, l => byteOfBits (l.take 8) :: bytesOfBits n (l.drop 8)

/-- The bit loop of `Descramble`: output `c ^ DS[0]`, feed back the input bit `c` (R171). -/
def descrambleBits (ds : Lfsr) : List Bool → List Bool
  | [] => []
  | c :: cs => (c ^^ ds.getLsbD 0) :: descrambleBits (lfsrNext ds c) cs

/-- The bit loop of `Scramble`: output `c = p ^ DS[0]`, feed back the output bit `c` (R172). -/
def scrambleBits (ds : Lfsr) : List Bool → List Bool
  | [] => []
  | p :: ps => (p ^^ ds.getLsbD 0) :: scrambleBits (lfsrNext ds (p ^^ ds.getLsbD 0)) ps

/-- `Descramble(X, seed)` (R171). -/
def descrambleBytes (seed : Lfsr) (x : List Byte) : List Byte :=
  bytesOfBits x.length (descrambleBits seed (bitsOfBytes x))

/-- `Scramble(P, seed)` (R172). -/
def scrambleBytes (seed : Lfsr) (p : List Byte) : List Byte :=
  bytesOfBits p.length (scrambleBits seed (bitsOfBytes p))

/-- `Validate(X, P, seed)`: `Scramble(P, seed) = X` byte for byte (R173). -/
def validateBytes (seed : Lfsr) (x p : List Byte) : Bool := scrambleBytes seed p == x

end Sys2Proof.Machine
end

