-- ==== Sys2Proof/Machine/Descrambler.lean ====
section
/-! DEFINITION. The commands DESCRAMBLE and VALIDATE (41_descrambler.md §2, rules R177 and R178). Every call starts from
SEED as it stands at the command's step (R174). -/

namespace Sys2Proof.Machine

/-- DESCRAMBLE n (R177). -/
def execDescramble (n : BitVec 8) (s : State) : Host.Outcome State Fault Refusal :=
  .next (complete (setReason .none (writeOut (descrambleBytes s.seed (readIn s n.toNat)) s)))

/-- `SCRAMBLER_OK <- ok; REASON <- (ok ? 0x00 : 0x02)` (R178). -/
def validateResult (ok : Bool) (s : State) : State :=
  setReason (if ok then .none else .scramblerMismatch) { s with status := { s.status with scramblerOk := ok } }

/-- VALIDATE n: the scrambled bytes are IN, the descrambled ones OUT as it stands (R178). -/
def execValidate (n : BitVec 8) (s : State) : Host.Outcome State Fault Refusal :=
  .next (complete (validateResult (validateBytes s.seed (readIn s n.toNat) (readOut s n.toNat)) s))

end Sys2Proof.Machine
end

