-- ==== Sys2Proof/Machine/Crc.lean ====
section
/-! DEFINITION. The length decoder, the Hamming CRC decoder and CRC-16/X.25 (42_crc.md, rules R190, R192, R193, R196
and R197). -/

namespace Sys2Proof.Machine

open Sys2Proof.Config

/-- `LengthDecode(Hp)`: bit 7 of header-plaintext bytes 2 to 11, most significant first (R190). -/
def lengthOf (hp : List Byte) : BitVec 10 :=
  ((hp.drop 2).take 10).foldl (fun n b => (n <<< 1) ||| (if b.msb then 1 else 0)) 0

/-- `nib(e) = HAMMING_DECODE[e[6:0]]`; bit 7 of `e` is ignored (R192). -/
def hammingNibble (par : Params) (e : Byte) : BitVec 4 :=
  par.hammingDecode[(e.setWidth 7).toNat]'((e.setWidth 7).isLt)

/-- `HammingCrcDecode(E)`: the nibbles concatenated, the first the most significant (R193). -/
def hammingFcs (par : Params) (e : List Byte) : Half :=
  e.foldl (fun acc b => (acc <<< 4) ||| (hammingNibble par b).setWidth 16) 0

/-- One of the eight shifts of a CRC byte (R196). -/
def crcShift (crc : Half) : Half := if crc.getLsbD 0 then (crc >>> 1) ^^^ 0x8408 else crc >>> 1

/-- One byte of CRC-16/X.25, least significant bit first (R196). -/
def crcByte (crc : Half) (b : Byte) : Half :=
  crcShift (crcShift (crcShift (crcShift (crcShift (crcShift (crcShift (crcShift (crc ^^^ b.setWidth 16))))))))

/-- `Crc16X25(M)`: initial value 0xFFFF, final XOR 0xFFFF (R196). -/
def crc16X25 (m : List Byte) : Half := m.foldl crcByte 0xFFFF ^^^ 0xFFFF

/-- The CRC message `AX25_PREFIX ‖ P` (R197). -/
def prefixed (par : Params) (p : List Byte) : List Byte := par.ax25Prefix.toList ++ p

end Sys2Proof.Machine
end

