-- ==== Sys2Proof/Machine/CrcHeader.lean ====
section
/-! DEFINITION. The commands LENGTH_DECODE, HAMMING_CRC and CRC_CHECK (42_crc.md, rules R191, R194 and R199). -/

namespace Sys2Proof.Machine

/-- `PAYLOAD_COUNT <- {VALID = 1, LENGTH = N}` (R191, R227). -/
def setLength (n : BitVec 10) (s : State) : State := { s with payloadCount := { valid := true, length := n } }

/-- LENGTH_DECODE (R191): a decoded length of 0 is kept and reported as INVALID_LENGTH. -/
def execLengthDecode (s : State) : Host.Outcome State Fault Refusal :=
  .next (complete (setReason (if lengthOf (readIn s 13) = 0 then .invalidLength else .none)
    (setLength (lengthOf (readIn s 13)) s)))

/-- HAMMING_CRC (R194): FCS.CALC stays. -/
def execHammingCrc (s : State) : Host.Outcome State Fault Refusal :=
  .next (complete (setReason .none { s with fcs := { s.fcs with rx := hammingFcs s.par (readIn s 4) } }))

/-- The message of CRC_CHECK: with NP = 0 the prefix comes first (R102, R199). -/
def crcMessage (np : Bool) (n : BitVec 8) (s : State) : List Byte :=
  if np then readIn s n.toNat else prefixed s.par (readIn s n.toNat)

/-- The comparison of CRC_CHECK (R198, R199). -/
def crcResult (computed : Half) (s : State) : State :=
  setReason (if computed = s.fcs.rx then .none else .crcMismatch)
    { s with
      fcs := { s.fcs with computed := computed }
      status := { s.status with crcOk := computed == s.fcs.rx } }

/-- CRC_CHECK n and CRC_CHECK.NP n (R199). -/
def execCrcCheck (np : Bool) (n : BitVec 8) (s : State) : Host.Outcome State Fault Refusal :=
  .next (complete (crcResult (crc16X25 (crcMessage np n s)) s))

end Sys2Proof.Machine
end

