-- ==== Sys2Proof/Machine/Gf.lean ====
section
/-! DEFINITION. GF(256) arithmetic with the field polynomial and primitive element as parameters (40_fec.md §1, rules
R130 and R131). A byte `b` stands for the polynomial `Σ b[i]·z^i` over GF(2); addition is `^^^`. -/

namespace Sys2Proof.Machine

open Sys2Proof.Config

/-- Multiplication by `z`, reduced modulo RS_PRIM_POLY (R130). -/
def gfTimesZ (par : Params) (a : Byte) : Byte :=
  (a <<< 1) ^^^ (if a.msb then par.rsPrimPoly.setWidth 8 else 0)

/-- `a ⊗ b`, the polynomial product reduced modulo RS_PRIM_POLY (R130), by Horner's rule over the bits of `b`. -/
def gfMul (par : Params) (a b : Byte) : Byte :=
  [7, 6, 5, 4, 3, 2, 1, 0].foldl (fun acc i => gfTimesZ par acc ^^^ (if b.getLsbD i then a else 0)) 0

/-- `a` multiplied by itself `i` times, with `a^0 = 0x01` (R130). -/
def gfPow (par : Params) (a : Byte) : Nat → Byte
  | 0 => 1
  | i + 1 => gfMul par (gfPow par a i) a

/-- The inverse of a nonzero element (R131): `a^254`, since `a^255 = 0x01` for every nonzero `a` of GF(256). -/
def gfInv (par : Params) (a : Byte) : Byte :=
  let a2 := gfMul par a a
  let a4 := gfMul par a2 a2
  let a8 := gfMul par a4 a4
  let a16 := gfMul par a8 a8
  let a32 := gfMul par a16 a16
  let a64 := gfMul par a32 a32
  let a128 := gfMul par a64 a64
  gfMul par a128 (gfMul par a64 (gfMul par a32 (gfMul par a16 (gfMul par a8 (gfMul par a4 a2)))))

/-- The powers `a^1, …, a^n`, each from the one before. -/
def gfPowers (par : Params) (a : Byte) : Nat → Byte → List Byte
  | 0, _ => []
  | n + 1, x => let y := gfMul par x a; y :: gfPowers par a n y

/-- RS_PRIM_POLY and RS_ALPHA make a field of 256 elements (R13, R130): the polynomial has degree 8, and `α` has order
255, so its powers are all the nonzero elements. Every RS claim about arbitrary parameters takes this as a premise. -/
def rsFieldOk (par : Params) : Bool :=
  par.rsPrimPoly.getLsbD 8 &&
    (gfPowers par par.rsAlpha 254 1).all (fun x => x != 0 && x != 1) && gfPow par par.rsAlpha 255 == 1

end Sys2Proof.Machine
end

