-- ==== Sys2Proof/Machine/ReedSolomon.lean ====
section
/-! DEFINITION. The Reed-Solomon codes and their decoder (40_fec.md §2 and §3, rules R132 to R142). A block is a list
of bytes, byte 0 the highest-degree coefficient (R132). The decoder's result is fixed by R140 whatever the algorithm;
the algorithm here was chosen so that its correctness is short to prove: ANY nonzero solution of the key equations
vanishes at every error locator, and Lagrange interpolation then gives the error values. -/

namespace Sys2Proof.Machine

open Sys2Proof.Config

/-- What RSDecode answers (R140). -/
inductive RsResult where
  /-- A codeword and the correction count. -/
  | ok (c : List Byte) (k : Nat)
  | fail
deriving DecidableEq, Repr

/-! ### Polynomials and blocks -/

/-- The value at `x` of the polynomial with these coefficients, highest degree first (R132). -/
def polyEval (par : Params) (b : List Byte) (x : Byte) : Byte :=
  b.foldl (fun acc v => gfMul par acc x ^^^ v) 0

/-- `g(x) · (x ⊕ r)`, coefficients highest degree first. -/
def polyMulRoot (par : Params) (g : List Byte) (r : Byte) : List Byte :=
  List.zipWith (· ^^^ ·) (g ++ [0]) (0 :: g.map (gfMul par r))

/-- `Σ u_i ⊗ v_i`. -/
def gfDot (par : Params) (u v : List Byte) : Byte :=
  (List.zipWith (gfMul par) u v).foldl (· ^^^ ·) 0

/-- The `i`-th root `α^(RS_FCR + i)` of the generator polynomial (R133). -/
def rsRoot (par : Params) (i : Nat) : Byte := gfPow par par.rsAlpha (par.rsFcr + i)

/-- `g_p(x)`, highest degree first (R133). -/
def rsGenerator (par : Params) (p : Nat) : List Byte :=
  (List.range p).foldl (fun g i => polyMulRoot par g (rsRoot par i)) [1]

/-- One step of the division by `g_p`: shift in data byte `d`, with the remainder so far in `r`. -/
def rsParityStep (par : Params) (gTail : List Byte) (r : List Byte) (d : Byte) : List Byte :=
  let q := d ^^^ r.headD 0
  List.zipWith (· ^^^ ·) (r.tail ++ [0]) (gTail.map (gfMul par q))

/-- The parity bytes of data `D`: the coefficients of `(D(x)·x^p) mod g_p(x)`, highest degree first (R134). -/
def rsParity (par : Params) (p : Nat) (data : List Byte) : List Byte :=
  data.foldl (rsParityStep par (rsGenerator par p).tail) (List.replicate p 0)

/-- The systematic codeword of data `D` (R134). -/
def rsEncode (par : Params) (p : Nat) (data : List Byte) : List Byte := data ++ rsParity par p data

/-- The syndromes `S_i = c(α^(RS_FCR + i))`, `i = 0 … p-1` (R134). -/
def rsSyndromes (par : Params) (p : Nat) (c : List Byte) : List Byte :=
  (List.range p).map fun i => polyEval par c (rsRoot par i)

/-- Membership of `c` in `RS(len(c), p)`: all syndromes zero (R134). -/
def rsIsCodeword (par : Params) (p : Nat) (c : List Byte) : Bool :=
  (rsSyndromes par p c).all (· == 0)

/-- The Hamming distance of two blocks of equal length (R136). -/
def rsDist (a b : List Byte) : Nat := ((a.zip b).filter (fun q => q.1 != q.2)).length

/-! ### The bounded-distance decoder -/

/-- The locator `α^(n-1-j)` of each byte index `j` of an `n`-byte block: the `x^(n-1-j)` of R132. -/
def rsLocators (par : Params) (n : Nat) : List Byte := (gfPowers par par.rsAlpha (n - 1) 1).reverse ++ [1]

/-- The vectors of a basis that a key equation `row · v = 0` leaves: the first vector off the hyperplane is the pivot,
it is dropped, and a multiple of it brings each later vector onto the hyperplane. -/
def rsRestrict (par : Params) (row : List Byte) : List (List Byte) → List (List Byte)
  | [] => []
  | v :: rest =>
    let fv := gfDot par row v
    if fv = 0 then v :: rsRestrict par row rest
    else rest.map fun w =>
      let fw := gfDot par row w
      List.zipWith (fun a b => gfMul par fv a ^^^ gfMul par fw b) w v

/-- The unit vectors of length `m`. -/
def rsUnitBasis (m : Nat) : List (List Byte) :=
  (List.range m).map fun k => (List.range m).map fun j => if j = k then 1 else 0

/-- A nonzero `Λ` with `Σ_k Λ_k S_(i+k) = 0` for `i = 0 … t-1`, lowest degree first. Its roots include the locator of
every wrong byte when at most `t` bytes are wrong. -/
def rsLocatorPoly (par : Params) (t : Nat) (syn : List Byte) : List Byte :=
  (((List.range t).map fun i => (syn.drop i).take (t + 1)).foldl (fun basis row => rsRestrict par row basis)
    (rsUnitBasis (t + 1))).headD []

/-- The locators among those of an `n`-byte block at which `Λ` vanishes. -/
def rsErrorLocators (par : Params) (n : Nat) (lam : List Byte) : List Byte :=
  (rsLocators par n).filter fun x => polyEval par lam.reverse x == 0

/-- The error value at locator `x`, all error locators being among `xs`: with
`N(z) = Π_{y ∈ xs, y ≠ x} (z ⊕ y)`, it is `(Σ_k N_k S_k) / (x^RS_FCR ⊗ N(x))`. -/
def rsErrorValue (par : Params) (syn xs : List Byte) (x : Byte) : Byte :=
  let num := (xs.filter (· != x)).foldl (polyMulRoot par) [1]
  gfMul par (gfDot par num.reverse syn) (gfInv par (gfMul par (gfPow par x par.rsFcr) (polyEval par num x)))

/-- The block with the error values taken off at the error locators. -/
def rsCorrect (par : Params) (p : Nat) (b : List Byte) : List Byte :=
  let syn := rsSyndromes par p b
  let xs := rsErrorLocators par b.length (rsLocatorPoly par (p / 2) syn)
  List.zipWith (fun v x => if x ∈ xs then v ^^^ rsErrorValue par syn xs x else v) b (rsLocators par b.length)

/-- The `fail` branch of R140: the codeword within distance `t = p/2` and its distance, or FAIL. The last check is the
source's syndrome check. -/
def rsBounded (par : Params) (p : Nat) (b : List Byte) : RsResult :=
  if rsIsCodeword par p b then .ok b 0
  else
    let c := rsCorrect par p b
    if rsIsCodeword par p c && decide (rsDist b c ≤ p / 2) then .ok c (rsDist b c) else .fail

/-- The draw of R140's last branch, for a block of `n` bytes: FAIL, or a codeword with a count in `1 … t`. Every
codeword is the systematic codeword of its data bytes (R134), so drawn data bytes draw any codeword. -/
def rsBeyondDraw (par : Params) (draw p n : Nat) : RsResult :=
  if Config.beyondFails draw p then .fail
  else .ok (rsEncode par p ((List.range (n - p)).map (Config.beyondByte draw p)))
    (Config.beyondCount draw p % (p / 2) + 1)

/-- `RSDecode(B, p)` (R140), with the number of this step's draw. -/
def rsDecode (par : Params) (draw p : Nat) (b : List Byte) : RsResult :=
  match rsBounded par p b with
  | .ok c k => .ok c k
  | .fail =>
    match par.rsBeyondT with
    | .fail => .fail
    | .any => rsBeyondDraw par draw p b.length

end Sys2Proof.Machine
end

