-- ==== Sys2Proof/Machine/Fec.lean ====
section
/-! DEFINITION. The FEC commands RS_DECODE_HDR and RS_DECODE_PAY (40_fec.md §4, rules R145 and R146). -/

namespace Sys2Proof.Machine

/-- The writes of RS_DECODE_HDR for a decoder result (R145). -/
def headerFecResult (r : RsResult) (s : State) : State :=
  match r with
  | .ok c k => setReason .none { writeOut c s with hdrCorr := corrDecoded k }
  | .fail => setReason .badHeader { s with outLen := 0, hdrCorr := corrFailed }

/-- RS_DECODE_HDR (R145). -/
def execRsDecodeHdr (s : State) : Host.Outcome State Fault Refusal :=
  .next (complete (headerFecResult (rsDecode s.par s.draws 2 (readIn s 15)) s))

/-- The writes of RS_DECODE_PAY for a decoder result (R146). -/
def payloadFecResult (r : RsResult) (s : State) : State :=
  match r with
  | .ok c k => setReason .none { writeOut c s with payCorr := corrDecoded k }
  | .fail => setReason .payloadFecFail { s with outLen := 0, payCorr := corrFailed }

/-- RS_DECODE_PAY n: the block is `n + 16` bytes (R146). -/
def execRsDecodePay (n : BitVec 8) (s : State) : Host.Outcome State Fault Refusal :=
  .next (complete (payloadFecResult (rsDecode s.par s.draws 16 (readIn s (n.toNat + 16))) s))

end Sys2Proof.Machine
end

