-- ==== Sys2Proof/Machine/Frame.lean ====
section
/-! DEFINITION. The command DECODE_FRAME, one definition per stage of the source's per-packet state machine
(43_frame_decode.md, rules R220 to R234). Each stage either discards or hands on to the next; no stage runs twice. -/

namespace Sys2Proof.Machine

/-- The OUT record of R233: header, header parity, encoded CRC, payload parity, payload. -/
def outRecord (hc e pc : List Byte) (n : Nat) (payload : List Byte) : List Byte :=
  hc.take 13 ++ hc.drop 13 ++ e ++ pc.drop n ++ payload

/-- ASSEMBLED (R232): the record is written whether or not the CRC matched. -/
def assemble (record : List Byte) (s : State) : State :=
  let t := writeOut record s
  { t with
    status :=
      { t.status with
        record := true
        payloadValid := s.status.crcOk
        reason := if s.status.crcOk then .none else .crcMismatch } }

/-- CRC_CHECK (R231): both FCS values and the comparison; never a discard. -/
def frameCrc (rx computed : Half) (s : State) : State :=
  { s with fcs := { rx := rx, computed := computed }, status := { s.status with crcOk := rx == computed } }

/-- DESCRAMBLE_PAYLOAD, CRC_CHECK and ASSEMBLED (R230 to R233) for the header codeword `hc`, the payload codeword `pc`
and the length `n`. -/
def framePayload (f hc pc : List Byte) (n : Nat) (s : State) : State :=
  let p := descrambleBytes s.seed (pc.take n)
  let e := slice f (payloadBase s.par + n + 16) 4
  assemble (outRecord hc e pc n p) (frameCrc (hammingFcs s.par e) (crc16X25 (prefixed s.par p)) s)

/-- PAYLOAD_FEC (R229). -/
def framePayloadFec (f hc : List Byte) (n : Nat) (s : State) : State :=
  match rsDecode s.par s.draws 16 (slice f (payloadBase s.par) (n + 16)) with
  | .fail => discard .payloadFecFail { s with payCorr := corrFailed }
  | .ok pc m => framePayload f hc pc n { s with payCorr := corrDecoded m }

/-- The length checks of R227 and R228, after PAYLOAD_COUNT is written. -/
def frameLength (f hc : List Byte) (n : BitVec 10) (s : State) : State :=
  if n = 0 then discard .invalidLength s
  else if f.length - payloadBase s.par < n.toNat + 20 then discard .insufficientBytes s
  else framePayloadFec f hc n.toNat s

/-- DESCRAMBLE_HEADER, SCRAMBLER_CHECK and LENGTH_DECODE (R225 to R227). -/
def frameHeader (f hc : List Byte) (s : State) : State :=
  let h := hc.take 13
  let hp := descrambleBytes s.seed h
  if validateBytes s.seed h hp then
    frameLength f hc (lengthOf hp) (setLength (lengthOf hp) { s with status := { s.status with scramblerOk := true } })
  else discard .scramblerMismatch s

/-- FRAMED and HEADER_FEC (R223, R224). -/
def frameHeaderFec (f : List Byte) (s : State) : State :=
  if f.length < hdrOffset s.par + 15 then discard .truncatedHeader s
  else match rsDecode s.par s.draws 2 (slice f (hdrOffset s.par) 15) with
    | .fail => discard .badHeader { s with hdrCorr := corrFailed }
    | .ok hc k => frameHeader f hc { s with hdrCorr := corrDecoded k }

/-- DECODE_FRAME (R220). -/
def execDecodeFrame (s : State) : Host.Outcome State Fault Refusal :=
  .next (complete (frameHeaderFec (rawFrame s) (clearResults s)))

end Sys2Proof.Machine
end

