-- ==== Sys2Proof/Machine/Dispatch.lean ====
section
/-! DEFINITION. The meaning of each command: one arm per constructor (spec/opcode_table.json). -/

namespace Sys2Proof.Machine

def exec (i : Instr) (s : State) : Host.Outcome State Fault Refusal :=
  match i with
  | .decodeFrame => Sys2Proof.Machine.execDecodeFrame s
  | .rsDecodeHdr => Sys2Proof.Machine.execRsDecodeHdr s
  | .rsDecodePay n => Sys2Proof.Machine.execRsDecodePay n s
  | .descramble n => Sys2Proof.Machine.execDescramble n s
  | .validate n => Sys2Proof.Machine.execValidate n s
  | .lengthDecode => Sys2Proof.Machine.execLengthDecode s
  | .hammingCrc => Sys2Proof.Machine.execHammingCrc s
  | .crcCheck np n => Sys2Proof.Machine.execCrcCheck np n s

end Sys2Proof.Machine
end

