-- ==== Sys2Proof/Machine/Completion.lean ====
section
/-! DEFINITION. The engine's only step (10_state.md rule R49, 70_reset_and_hazards.md rule R299), and the placing of a
command for the very next step. -/

namespace Sys2Proof.Machine

/-- The completion of PEND: all of the command's writes in one step (R299). -/
def runPending (pend : Word) (s : State) : Host.Outcome State Fault Refusal :=
  match decode pend with
  | .ok i => exec i s
  | .error _ => .fault (.undecodablePend pend)

/-- No host input is served before the completion of the command in progress. -/
def completeNext (s : State) : State :=
  match s.eng with
  | .idle => s
  | .busy pend _ => { s with eng := .busy pend 0 }

end Sys2Proof.Machine
end

