-- ==== Sys2Proof/Machine/Step.lean ====
section
/-! DEFINITION. One step of the block, and where a command word is placed for the next step to run. -/

namespace Sys2Proof.Machine

/-- One step: the engine's completion, one host input, or nothing (R81, R299). -/
def step (s : State) : Host.Outcome State Fault Refusal :=
  match turn s with
  | .engine pend => runPending pend s
  | .host i t => serveInput i t
  | .quiet => .next s

/-- The block with the word issued to CMD as a host write does it while BUSY = 0 (R33), and its completion the very next
step. An illegal word is rejected at the write (R261), so no instruction runs. -/
def State.withFetchWord (s : State) (nbits w : Nat) : State :=
  completeNext (issueCommand (BitVec.ofNat 32 (w % 2 ^ nbits)) s)

end Sys2Proof.Machine
end

