-- ==== Sys2Proof/Machine/FrameBuilder.lean ====
section
/-! DEFINITION. The inverse functions that build a frame (95_test_vectors.md §2, 42_crc.md rule R195). No command of the
block runs them: they are the terms in which the claims about DECODE_FRAME speak (43_frame_decode.md rule R236). -/

namespace Sys2Proof.Machine

open Sys2Proof.Config

/-- The table `ENC[d]` of R195. -/
def hammingEncode (d : BitVec 4) : Byte :=
  [0x00#8, 0x71, 0x62, 0x13, 0x54, 0x25, 0x36, 0x47, 0x38, 0x49, 0x5A, 0x2B, 0x6C, 0x1D, 0x0E, 0x7F].getD d.toNat 0

/-- Step 4: the four Hamming-coded bytes of an FCS, most significant nibble first. -/
def encodedFcs (f : Half) : List Byte :=
  [hammingEncode (f.extractLsb' 12 4), hammingEncode (f.extractLsb' 8 4), hammingEncode (f.extractLsb' 4 4),
    hammingEncode (f.extractLsb' 0 4)]

/-- Step 1: bit 7 of byte `2 + k` set to bit `9 - k` of the length, the other bits from `q`. -/
def headerPlain (q : List Byte) (n : Nat) : List Byte :=
  q.mapIdx fun j b => if 2 ≤ j ∧ j ≤ 11 then (b &&& 0x7F) ||| (if n.testBit (11 - j) then 0x80 else 0) else b

/-- Steps 2 and 3 for the header: scramble, then append the parity. -/
def headerBlock (par : Params) (seed : Lfsr) (q : List Byte) (n : Nat) : List Byte :=
  rsEncode par 2 (scrambleBytes seed (headerPlain q n))

/-- Steps 2 and 3 for the payload. -/
def payloadBlock (par : Params) (seed : Lfsr) (payload : List Byte) : List Byte :=
  rsEncode par 16 (scrambleBytes seed payload)

/-- Step 5: LEN, the EXTRA byte where HDR_OFF = 2, and the three blocks in their order. -/
def frameOf (par : Params) (extra : Byte) (hblock pblock e : List Byte) : List Byte :=
  let body := (match par.hdrOff with | .one => [] | .two => [extra]) ++ hblock ++ pblock ++ e
  BitVec.ofNat 8 body.length :: body

end Sys2Proof.Machine
end

