-- ==== Sys2Proof/Safety.lean ====
section
/-! DEFINITION. What counts as a sound state and a clean run, in the terms the claims use. -/

namespace Sys2Proof.Machine

open Sys2Proof.Config

/-- What every state on a run from reset meets, and every step keeps. -/
structure State.Inv (s : State) : Prop where
  /-- The buffers are in canonical form (R71, R72). -/
  memCanonical : Memory.wf s.mem
  /-- PEND is CMD while BUSY (R49). -/
  pendIsCmd : ∀ pend k, s.eng = .busy pend k → pend = s.cmd
  /-- Only a legal word is ever accepted (R33). -/
  pendLegal : ∀ pend k, s.eng = .busy pend k → ∃ i, decode pend = .ok i
  /-- What acceptance cleared stays clear while BUSY; BUSY = 1 with DONE = 1 never occurs (R35). -/
  busyFlags : busy s = true →
    s.status.done = false ∧ s.status.cmdErr = false ∧ s.status.reason = .none ∧ s.status.record = false ∧
      s.status.payloadValid = false
  /-- CMD_ERR, and only CMD_ERR, goes with REASON 0x0F, and then DONE is set (R35, R264). -/
  errorReason : (s.status.cmdErr = true ↔ s.status.reason = .illegalCommand) ∧
    (s.status.cmdErr = true → s.status.done = true)
  /-- PAYLOAD_VALID = RECORD ∧ CRC_OK (R40). -/
  payloadValid : s.status.payloadValid = (s.status.record && s.status.crcOk)
  /-- A record's fields are valid (R39, R232). -/
  recordFields : s.status.record = true →
    s.status.scramblerOk = true ∧ s.hdrCorr.state = .decoded ∧ s.payCorr.state = .decoded ∧
      s.payloadCount.valid = true ∧ s.outLen.toNat = 35 + s.payloadCount.length.toNat
  /-- HDR_CORR.COUNT is 0 or 1, and 0 unless DECODED (R42). -/
  headerCount : s.hdrCorr.count.toNat ≤ 1 ∧ (s.hdrCorr.state ≠ .decoded → s.hdrCorr.count = 0)
  /-- PAY_CORR.COUNT is 0 to 8, and 0 unless DECODED (R43). -/
  payloadCorrections : s.payCorr.count.toNat ≤ 8 ∧ (s.payCorr.state ≠ .decoded → s.payCorr.count = 0)
  /-- PAYLOAD_COUNT is 0 unless VALID (R44, R221). -/
  lengthValid : s.payloadCount.valid = false → s.payloadCount.length = 0
  /-- OUT_LEN is 0 to 256 (R46). -/
  outLenBound : s.outLen.toNat ≤ 256

/-- The host program kept R295 so far: the premise a claim about a host program takes (R263). -/
def State.hazardFree (s : State) : Bool := !s.status.hazard

/-- The input is an access to the block's own window, or the reset (R70). -/
def Input.inWindow (par : Params) : Input → Bool
  | .read addr _ => (windowOffset par addr).isSome
  | .write addr _ _ => (windowOffset par addr).isSome
  | .reset => true

/-- The host has written the bytes `bs` to `IN[0 …]` (R293 step 3). -/
def holdsIn (s : State) (bs : List Byte) : Prop :=
  ∀ i, i < bs.length → Memory.get? s.mem (inBase + i) = bs[i]?

/-- `OUT[off …]` holds the bytes `bs`. -/
def holdsOut (s : State) (off : Nat) (bs : List Byte) : Prop :=
  ∀ i, i < bs.length → Memory.get? s.mem (outBase + off + i) = bs[i]?

/-- Every byte of the window outside `OUT[0 … n-1]` holds what it held. -/
def sameOutside (s t : State) (n : Nat) : Prop :=
  ∀ a, ¬ (outBase ≤ a ∧ a < outBase + n) → Memory.get? t.mem a = Memory.get? s.mem a

/-- R104's legality table as arithmetic on the word: its fields read off by division, with no bit-vector operation. -/
def legalByTable (w : Nat) : Bool :=
  let op := w % 16
  let np := w / 16 % 2
  let rsv0 := w / 32 % 8
  let len := w / 256 % 256
  let rsv1 := w / 65536
  rsv0 = 0 ∧ rsv1 = 0 ∧
    ((op = 1 ∧ len = 0 ∧ np = 0) ∨ (op = 2 ∧ len = 0 ∧ np = 0) ∨ (op = 3 ∧ 1 ≤ len ∧ len ≤ 239 ∧ np = 0) ∨
      (op = 4 ∧ np = 0) ∨ (op = 5 ∧ np = 0) ∨ (op = 6 ∧ len = 0 ∧ np = 0) ∨ (op = 7 ∧ len = 0 ∧ np = 0) ∨ op = 8)

/-- The command words of R101 to R103 and R108 as numbers: `(n << 8) | (np << 4) | OP`. -/
def commandNumber : Instr → Nat
  | .decodeFrame => 1
  | .rsDecodeHdr => 2
  | .rsDecodePay n => 256 * n.toNat + 3
  | .descramble n => 256 * n.toNat + 4
  | .validate n => 256 * n.toNat + 5
  | .lengthDecode => 6
  | .hammingCrc => 7
  | .crcCheck np n => 256 * n.toNat + 16 * np.toNat + 8

/-- The state after DECODE_FRAME discarded with reason `r`: all results cleared (R221) but those given, no record, OUT
not written (R234). -/
def discardedFrame (s : State) (r : Reason) (scramblerOk : Bool) (hdr pay : Corr)
    (count : PayloadCount) : State :=
  { s with
    hdrCorr := hdr
    payCorr := pay
    payloadCount := count
    fcs := { rx := 0, computed := 0 }
    outLen := 0
    status :=
      { s.status with
        done := true, reason := r, scramblerOk := scramblerOk, crcOk := false, record := false, payloadValid := false }
    eng := .idle
    draws := s.draws + 1 }

/-- NOT_ATTEMPTED with count 0, as R221 leaves a register whose stage never ran. -/
def notAttempted : Corr := { state := .notAttempted, count := 0 }

end Sys2Proof.Machine
end

