-- ==== Sys2Proof/Certificates/Slice0/Obligations.lean ====
section
/-! DEFINITION. The statements for the provers. Each quantifies over every state of its shape, hence over every choice
of the parameters in `State.par` and over every value of a free field; no statement needs a particular value of one. -/

open Sys2Proof Sys2Proof.Config Sys2Proof.Machine

/-! ### Command words (30_encoding.md) -/

/-- Decoding the word of any well-formed command gives the command back, every operand included. -/
def Obligations.DecodeOfEncodeIsTheCommand : Prop :=
  ∀ i : Instr, i.wf = true → decode (encode i) = .ok i

/-- R104: a word is accepted by the decoder exactly when the legality table lists it. -/
def Obligations.DecodeAcceptsExactlyTheLegalityTable : Prop :=
  ∀ w : Word, (∃ i, decode w = .ok i) ↔ legalByTable w.toNat = true

/-- R106: the decoder gives a word the command named by its OP with its LEN and NP, only when that command is
well-formed, and two legal words decode to the same command exactly when they are equal. -/
def Obligations.DecodeNamesTheCommandOfTheWord : Prop :=
  (∀ (w : Word) (i : Instr), decode w = .ok i ↔ i.wf = true ∧ w.toNat = commandNumber i) ∧
  (∀ (w : Word), (∃ i, decode w = .ok i) ↔ legalByTable w.toNat = true) ∧
  (∀ (v w : Word) (i j : Instr), decode v = .ok i → decode w = .ok j → (i = j ↔ v = w))

/-- Every word of 95_test_vectors.md §3.9 (V-CW1 to V-CW20), as R100's pattern writes it. The spec has one rejection,
IllegalCommand (R261): the names of the errors are the model's own, for a reader. -/
def Obligations.SampleWordsDecode : Prop :=
  decode 0x00000001 = .ok .decodeFrame ∧ decode 0x00000002 = .ok .rsDecodeHdr ∧
  decode 0x00001403 = .ok (.rsDecodePay 20) ∧ decode 0x0000EF03 = .ok (.rsDecodePay 239) ∧
  decode 0x00000D04 = .ok (.descramble 13) ∧ decode 0x0000FF04 = .ok (.descramble 255) ∧
  decode 0x00000405 = .ok (.validate 4) ∧ decode 0x00000006 = .ok .lengthDecode ∧
  decode 0x00000007 = .ok .hammingCrc ∧ decode 0x00000908 = .ok (.crcCheck false 9) ∧
  decode 0x00000918 = .ok (.crcCheck true 9) ∧ decode 0x00000000 = .error .reservedOpcode ∧
  decode 0x00000009 = .error .reservedOpcode ∧ decode 0x0000000F = .error .reservedOpcode ∧
  decode 0x00000101 = .error .lenNotZero ∧ decode 0x00000012 = .error .npNotZero ∧
  decode 0x00000003 = .error .lenOutOfRange ∧ decode 0x0000F003 = .error .lenOutOfRange ∧
  decode 0x00000021 = .error .reservedBits ∧ decode 0x00010001 = .error .reservedBits ∧
  decode 0x80000908 = .error .reservedBits

/-! ### Reset, steps and progress -/

/-- R290 and R292: at reset SEED reads 0x1F0 and every other register and reserved offset below IN reads 0, and the engine
is IDLE, whatever the parameters; no buffer byte is written. That the model's `State.reset` is this state with the default
parameters is the model's choice (log entry 5, PRESUMED). -/
def Obligations.ResetGivesTheStatedValues : Prop :=
  ∀ par : Params,
    (∀ off, off < 0x100 → registerRead (State.resetWith par) off = if off = 0x008 then 0x000001F0 else 0) ∧
    (State.resetWith par).eng = .idle ∧ (∀ a, Memory.get? (State.resetWith par).mem a = none) ∧
    State.reset = State.resetWith defaultParams

/-- R291: the reset input gives exactly the reset state, also while a command is in progress, and no step without it
clears HAZARD. The model's choices: reset is one input and one step, and parameters, inputs, responses and draw number
lie outside the block and stay (log entry 9); a BUSY engine whose wait is over acts before the input (log entry 6). -/
def Obligations.ResetInputAbandonsAndOnlyItClearsHazard : Prop :=
  (∀ (s : State) (rest : List Input), s.inputs = .reset :: rest →
    (s.eng = .idle ∨ ∃ pend k, s.eng = .busy pend (k + 1)) →
    step s = .next { State.resetWith s.par with inputs := rest, outbox := s.outbox, draws := s.draws + 1 }) ∧
  (∀ s t : State, step s = .next t → s.status.hazard = true → t.status.hazard = false →
    ∃ rest, s.inputs = .reset :: rest ∧ t.inputs = rest)

/-- A BUSY engine whose turn it is runs the command its pending word decodes to (R49, R299), on the state as it stands; a
word placed by `withFetchWord` is that pending word. The wait that decides whose turn it is (log entry 6) and the placing
of a word (log entry 11) are the model's choices. -/
def Obligations.StepRunsThePendingCommand : Prop :=
  (∀ (s : State) (pend : Word) (k : Nat) (i : Instr), s.eng = .busy pend k → (k = 0 ∨ s.inputs = []) →
    decode pend = .ok i → step s = exec i s) ∧
  (∀ (s : State) (w : Word) (i : Instr), decode w = .ok i →
    step (s.withFetchWord 32 w.toNat) = exec i { acceptCommand w s with eng := .busy w 0 })

/-- R81: host inputs are served one a step, in their order, while the block is IDLE or the engine's drawn wait lasts;
an IDLE block without inputs stays as it is. The wait (log entry 6) and the host as a list of inputs (log entry 7) are
the model's choices. -/
def Obligations.StepServesInputsInOrder : Prop :=
  (∀ (s : State) (i : Input) (rest : List Input), s.eng = .idle → s.inputs = i :: rest →
    step s = serveInput i { s with inputs := rest }) ∧
  (∀ (s : State) (pend : Word) (k : Nat) (i : Input) (rest : List Input), s.eng = .busy pend (k + 1) →
    s.inputs = i :: rest → step s = serveInput i { s with inputs := rest, eng := .busy pend k }) ∧
  (∀ s : State, s.eng = .idle → s.inputs = [] → step s = .next s)

/-- R299: a BUSY engine with a legal pending word becomes IDLE after finitely many steps, whatever inputs to the window
come first. R299 gives no upper bound: that one step more than the drawn wait is enough is the model's choice
(log entry 6). -/
def Obligations.BusyEngineEventuallyCompletes : Prop :=
  ∀ (s : State) (pend : Word) (k : Nat), s.eng = .busy pend k → (∃ i, decode pend = .ok i) →
    (∀ x ∈ s.inputs, x.inWindow s.par = true) →
    ∃ m t, m ≤ k + 1 ∧ Host.Core.run core m s = .next t ∧ t.eng = .idle

/-! ### The host bus -/

/-- R33 and R35: a legal word written to CMD while IDLE is accepted: CMD and PEND hold it, the handshake flags are
R35's, and nothing else of the block changes. Wait, response and draw number are the model's own fields (log entries 6
and 17), left open here. -/
def Obligations.LegalCommandWriteIsAccepted : Prop :=
  ∀ (s : State) (w : Word) (i : Instr) (rest : List Input), s.eng = .idle → decode w = .ok i →
    s.inputs = .write s.par.base 32 w :: rest →
    ∃ k r, step s = .next
      { s with
        cmd := w
        eng := .busy w k
        status :=
          { s.status with done := false, cmdErr := false, reason := .none, record := false, payloadValid := false }
        inputs := rest
        outbox := s.outbox ++ [r]
        draws := s.draws + 1 }

/-- R261: an illegal word written to CMD while IDLE stands in CMD, sets CMD_ERR, DONE and REASON 0x0F, leaves the engine
IDLE, and changes nothing else of the block. The response is left open (log entry 17). -/
def Obligations.IllegalCommandWriteIsRejected : Prop :=
  ∀ (s : State) (w : Word) (rest : List Input), s.eng = .idle → legalByTable w.toNat = false →
    s.inputs = .write s.par.base 32 w :: rest →
    ∃ r, step s = .next
      { s with
        cmd := w
        status := { s.status with done := true, cmdErr := true, reason := .illegalCommand }
        inputs := rest
        outbox := s.outbox ++ [r]
        draws := s.draws + 1 }

/-- R295: a host write to any offset while BUSY is ignored and sets HAZARD; the command in progress stays pending. The
response is left open, and the wait is the model's own field (log entries 6 and 17). -/
def Obligations.WriteWhileBusyOnlySetsHazard : Prop :=
  ∀ (s : State) (pend w : Word) (k off : Nat) (rest : List Input), s.eng = .busy pend (k + 1) → off < 0x1000 →
    off % 4 = 0 → s.inputs = .write (s.par.base + off) 32 w :: rest →
    ∃ r, step s = .next
      { s with
        eng := .busy pend k
        status := { s.status with hazard := true }
        inputs := rest
        outbox := s.outbox ++ [r]
        draws := s.draws + 1 }

/-- R75 and R262: a misaligned access, or one not 32 bits wide, gets the error response, in every engine state: a read
answers a drawn word, and no register, buffer byte or STATUS field changes (HAZARD is not set). -/
def Obligations.BusErrorChangesNothing : Prop :=
  ∀ (s : State) (off bits : Nat) (w : Word), (bits ≠ 32 ∨ off % 4 ≠ 0) →
    hostRead off bits s =
      { s with outbox := s.outbox ++ [.readError (Config.freeWord s.draws)], draws := s.draws + 1 } ∧
    hostWrite off bits w s = { s with outbox := s.outbox ++ [.writeError], draws := s.draws + 1 }

/-- R266: one host write to CMD is a bus error first, then a hazard, then an illegal word, and only then accepted. -/
def Obligations.CommandWriteChecksInOrder : Prop :=
  ∀ (s : State) (bits : Nat) (w : Word), ∃ r,
    (bits ≠ 32 → r = .writeError) ∧
    hostWrite 0 bits w s = respond r
      (if bits ≠ 32 then s
        else if busy s then markHazard s
        else if legalByTable w.toNat then acceptCommand w s
        else rejectCommand w s)

/-- R74: IN and OUT words are little-endian: bits `8j+7:8j` of the word at buffer offset `4k` are byte `4k + j`, on a
write to IN and on a read of either buffer, and a write to an IN word leaves every other byte as it was. -/
def Obligations.BufferWordsAreLittleEndian : Prop :=
  (∀ (s : State) (k : Nat) (w : Word), k < 64 → s.eng = .idle →
    (∀ j, j < 4 → Memory.get? (hostWrite (0x100 + 4 * k) 32 w s).mem (inBase + 4 * k + j) =
      some (w.extractLsb' (8 * j) 8)) ∧
    (∀ a, ¬ (inBase + 4 * k ≤ a ∧ a < inBase + 4 * k + 4) →
      Memory.get? (hostWrite (0x100 + 4 * k) 32 w s).mem a = Memory.get? s.mem a)) ∧
  (∀ (s : State) (k j : Nat), k < 64 → j < 4 →
    (registerRead s (0x100 + 4 * k)).extractLsb' (8 * j) 8 = byteAt s (inBase + 4 * k + j) ∧
    (s.eng = .idle →
      (registerRead s (0x200 + 4 * k)).extractLsb' (8 * j) 8 = byteAt s (outBase + 4 * k + j)))

/-- R41: a write to SEED while IDLE keeps bits 8:0 of the word and changes nothing else, one while BUSY only sets HAZARD;
SEED reads back with bits 31:9 zero, in every engine state. -/
def Obligations.SeedHoldsNineBits : Prop :=
  ∀ (s : State) (w : Word),
    (s.eng = .idle → ∃ r, hostWrite 0x008 32 w s =
      { s with seed := BitVec.ofNat 9 (w.toNat % 512), outbox := s.outbox ++ [r], draws := s.draws + 1 }) ∧
    (busy s = true → ∃ r, hostWrite 0x008 32 w s = respond r (markHazard s)) ∧
    (registerRead s 0x008).toNat = s.seed.toNat

/-- R32 and R47: while IDLE, a write to an offset other than CMD, SEED and IN changes no register and no buffer byte. -/
def Obligations.ReadOnlyAndReservedOffsetsIgnoreWrites : Prop :=
  ∀ (s : State) (off : Nat) (w : Word), s.eng = .idle → off < 0x1000 → off % 4 = 0 → off ≠ 0x000 → off ≠ 0x008 →
    ¬ (0x100 ≤ off ∧ off < 0x200) →
    ∃ r, hostWrite off 32 w s = { s with outbox := s.outbox ++ [r], draws := s.draws + 1 }

/-- R47: reserved offsets read as 0 and ignore writes (a write while BUSY sets HAZARD), the reserved bits of every
register read 0, and those of SEED, the one register that is written by value, ignore writes. -/
def Obligations.ReservedSpaceReadsZero : Prop :=
  (∀ (s : State) (off : Nat), (0x020 ≤ off ∧ off < 0x100) ∨ (0x300 ≤ off ∧ off < 0x1000) →
    registerRead s off = 0 ∧
    ∀ w, off % 4 = 0 → ∃ r, hostWrite off 32 w s =
      respond r (if busy s then { s with status := { s.status with hazard := true } } else s)) ∧
  (∀ (s : State), (∀ i, (4 ≤ i ∧ i ≤ 7) ∨ 20 ≤ i → (registerRead s 0x004).getLsbD i = false) ∧
    (∀ i, 9 ≤ i → (registerRead s 0x008).getLsbD i = false) ∧
    (∀ w, hostWrite 0x008 32 w s = hostWrite 0x008 32 (w &&& 0x1FF) s) ∧
    (s.eng = .idle →
      (∀ i, 10 ≤ i → (registerRead s 0x00C).getLsbD i = false ∧ (registerRead s 0x010).getLsbD i = false) ∧
      (∀ i, (10 ≤ i ∧ i ≤ 15) ∨ 17 ≤ i → (registerRead s 0x014).getLsbD i = false) ∧
      (∀ i, 9 ≤ i → (registerRead s 0x01C).getLsbD i = false)))

/-- R73, R74 and R77: an aligned 32-bit host read in the window answers the word of its offset, while IDLE and while BUSY,
and no host read, whatever its offset and width, changes a register, a flag, a buffer byte or a parameter. -/
def Obligations.HostReadsHaveNoSideEffect : Prop :=
  ∀ (s : State) (off bits : Nat) (rest : List Input), off < 0x1000 →
    s.inputs = .read (s.par.base + off) bits :: rest →
    ∃ r, (bits = 32 → off % 4 = 0 → r = .data (registerRead s off)) ∧
      (s.eng = .idle →
        step s = .next { s with inputs := rest, outbox := s.outbox ++ [r], draws := s.draws + 1 }) ∧
      (∀ pend k, s.eng = .busy pend (k + 1) →
        step s = .next
          { s with inputs := rest, eng := .busy pend k, outbox := s.outbox ++ [r], draws := s.draws + 1 })

/-- R32, R33 and R41 to R46: what CMD, SEED and the result registers read as while IDLE, every field at its place: COUNT
at 7:0 and the STATE code at 9:8, LENGTH at 9:0 and VALID at 16, RX at 15:0 and CALC at 31:16. -/
def Obligations.RegistersReadWhileIdle : Prop :=
  ∀ (s : State), s.eng = .idle →
    registerRead s 0x000 = s.cmd ∧ (registerRead s 0x008).toNat = s.seed.toNat ∧
    (∀ c n, (c, n) ∈ [(CorrState.notAttempted, 0), (.decoded, 1), (.failed, 2)] →
      (s.hdrCorr.state = c → (registerRead s 0x00C).toNat = s.hdrCorr.count.toNat + 2 ^ 8 * n) ∧
      (s.payCorr.state = c → (registerRead s 0x010).toNat = s.payCorr.count.toNat + 2 ^ 8 * n)) ∧
    (registerRead s 0x014).toNat = s.payloadCount.length.toNat + 2 ^ 16 * s.payloadCount.valid.toNat ∧
    (registerRead s 0x018).toNat = s.fcs.rx.toNat + 2 ^ 16 * s.fcs.computed.toNat ∧
    (registerRead s 0x01C).toNat = s.outLen.toNat

/-- R296: what each offset reads as while BUSY: STATUS with DONE = 0, BUSY = 1, CMD_ERR = 0, the current HAZARD and a
drawn rest; CMD the executing word (PEND, which the invariant makes equal to CMD, R49); SEED and IN their values; the
result registers and OUT a draw; reserved offsets 0 (R47). -/
def Obligations.ReadsWhileBusy : Prop :=
  ∀ (s : State), busy s = true →
    ((registerRead s 0x004).getLsbD 0 = false ∧ (registerRead s 0x004).getLsbD 1 = true ∧
      (registerRead s 0x004).getLsbD 2 = false ∧ (registerRead s 0x004).getLsbD 3 = s.status.hazard ∧
      ∀ i, 8 ≤ i → i < 20 → (registerRead s 0x004).getLsbD i = (Config.freeWord s.draws).getLsbD i) ∧
    registerRead s 0x000 = s.cmd ∧
    (s.Inv → ∀ pend k, s.eng = .busy pend k → registerRead s 0x000 = pend) ∧
    registerRead s 0x008 = seedWord s ∧
    (∀ k, k < 64 → registerRead s (0x100 + 4 * k) = bufferWord s (0x100 + 4 * k)) ∧
    (∀ off, off ∈ [0x00C, 0x010, 0x014, 0x018, 0x01C] → registerRead s off = Config.freeWord s.draws) ∧
    (∀ k, k < 64 → registerRead s (0x200 + 4 * k) = Config.freeWord s.draws) ∧
    (∀ off, (0x020 ≤ off ∧ off < 0x100) ∨ (0x300 ≤ off ∧ off < 0x1000) → registerRead s off = 0)

/-- R34 and R264: STATUS while IDLE, bit by bit, with the REASON code at bits 15:8, for each of the nine codes. -/
def Obligations.StatusWordShowsTheFlags : Prop :=
  ∀ (s : State) (r : Reason) (code : Nat), s.eng = .idle → s.status.reason = r →
    (r, code) ∈ [(Reason.none, 0x00), (.badHeader, 0x01), (.scramblerMismatch, 0x02), (.invalidLength, 0x03),
      (.insufficientBytes, 0x04), (.truncatedHeader, 0x05), (.payloadFecFail, 0x06), (.crcMismatch, 0x07),
      (.illegalCommand, 0x0F)] →
    (registerRead s 0x004).toNat =
      s.status.done.toNat + 4 * s.status.cmdErr.toNat + 8 * s.status.hazard.toNat + 256 * code +
      2 ^ 16 * s.status.scramblerOk.toNat + 2 ^ 17 * s.status.crcOk.toNat + 2 ^ 18 * s.status.record.toNat +
      2 ^ 19 * s.status.payloadValid.toNat

/-- R15, R70 and R73: an access is the block's exactly when its bus address lies in the 4 KiB window at BASE; inside, it is
the host read or write at its distance from BASE. An access outside it stops the machine by name (the model's choice,
log entry 8). -/
def Obligations.WindowIsFourKilobytesAtBase : Prop :=
  (∀ (par : Params) (off : Nat), off < 0x1000 → windowOffset par (par.base + off) = some off) ∧
  (∀ (s : State) (off bits : Nat) (w : Word), off < 0x1000 →
    serveInput (.read (s.par.base + off) bits) s = .next (hostRead off bits s) ∧
    serveInput (.write (s.par.base + off) bits w) s = .next (hostWrite off bits w s)) ∧
  (∀ (s : State) (addr bits : Nat) (w : Word), (addr < s.par.base ∨ s.par.base + 0x1000 ≤ addr) →
    serveInput (.read addr bits) s = .fault (.outsideWindow addr) ∧
    serveInput (.write addr bits w) s = .fault (.outsideWindow addr))

/-! ### The engine as a whole -/

/-- R35: every command completes, in one step, from every state: BUSY clears, DONE sets. -/
def Obligations.EveryCommandCompletes : Prop :=
  ∀ (i : Instr) (s : State), ∃ t, exec i s = .next t ∧ t.eng = .idle ∧ t.status.done = true

/-- R70: the engine writes only OUT, the result registers and STATUS: CMD, SEED, HAZARD, CMD_ERR, IN and everything
outside the block stay as they were. -/
def Obligations.EngineWritesOnlyOutAndResults : Prop :=
  ∀ (i : Instr) (s t : State), i.wf = true → exec i s = .next t →
    t.cmd = s.cmd ∧ t.seed = s.seed ∧ t.status.hazard = s.status.hazard ∧ t.status.cmdErr = s.status.cmdErr ∧
    t.par = s.par ∧ t.inputs = s.inputs ∧ t.outbox = s.outbox ∧
    (∀ a, ¬ (outBase ≤ a ∧ a < bufferEnd) → Memory.get? t.mem a = Memory.get? s.mem a)

/-- What each command leaves unchanged of the result registers and OUT (the frame of the primitive commands). -/
def Obligations.PrimitiveCommandsLeaveOtherResults : Prop :=
  (∀ (s t : State), exec .rsDecodeHdr s = .next t →
    t.payCorr = s.payCorr ∧ t.payloadCount = s.payloadCount ∧ t.fcs = s.fcs ∧ sameOutside s t t.outLen.toNat ∧
    t.status = { s.status with done := true, reason := t.status.reason }) ∧
  (∀ (n : BitVec 8) (s t : State), Instr.wf (.rsDecodePay n) = true → exec (.rsDecodePay n) s = .next t →
    t.hdrCorr = s.hdrCorr ∧ t.payloadCount = s.payloadCount ∧ t.fcs = s.fcs ∧ sameOutside s t t.outLen.toNat ∧
    t.status = { s.status with done := true, reason := t.status.reason }) ∧
  (∀ (n : BitVec 8) (s t : State), exec (.descramble n) s = .next t →
    t.hdrCorr = s.hdrCorr ∧ t.payCorr = s.payCorr ∧ t.payloadCount = s.payloadCount ∧ t.fcs = s.fcs ∧
    sameOutside s t n.toNat ∧ t.status = { s.status with done := true, reason := .none }) ∧
  (∀ (n : BitVec 8) (s t : State), exec (.validate n) s = .next t →
    t = { s with status := t.status, eng := .idle, draws := s.draws + 1 } ∧
    t.status = { s.status with done := true, reason := t.status.reason, scramblerOk := t.status.scramblerOk }) ∧
  (∀ (s t : State), exec .lengthDecode s = .next t →
    t = { s with status := t.status, payloadCount := t.payloadCount, eng := .idle, draws := s.draws + 1 } ∧
    t.status = { s.status with done := true, reason := t.status.reason }) ∧
  (∀ (s t : State), exec .hammingCrc s = .next t →
    t = { s with status := t.status, fcs := t.fcs, eng := .idle, draws := s.draws + 1 } ∧
    t.fcs.computed = s.fcs.computed ∧ t.status = { s.status with done := true, reason := .none }) ∧
  (∀ (np : Bool) (n : BitVec 8) (s t : State), exec (.crcCheck np n) s = .next t →
    t = { s with status := t.status, fcs := t.fcs, eng := .idle, draws := s.draws + 1 } ∧
    t.fcs.rx = s.fcs.rx ∧
    t.status = { s.status with done := true, reason := t.status.reason, crcOk := t.status.crcOk })

/-! ### Descrambler (41_descrambler.md) -/

/-- R175: Scramble and Descramble are inverse to each other for every seed and byte sequence, and the validate of a
descrambler output is always true. -/
def Obligations.ScrambleAndDescrambleAreInverse : Prop :=
  ∀ (seed : Lfsr) (b : List Byte),
    scrambleBytes seed (descrambleBytes seed b) = b ∧ descrambleBytes seed (scrambleBytes seed b) = b ∧
    validateBytes seed b (descrambleBytes seed b) = true

/-- R176: from bit position 9 on, counted from the most significant bit of the first byte, the descrambler's output does
not depend on the seed. -/
def Obligations.DescrambleSynchronizesAfterNineBits : Prop :=
  ∀ (x : List Byte) (seed seed' : Lfsr) (k : Nat), 9 ≤ k →
    (bitsOfBytes (descrambleBytes seed x))[k]? = (bitsOfBytes (descrambleBytes seed' x))[k]?

/-- From R171: from bit position 9 on, each descrambled bit is the XOR of three received bits, the present one and those
4 and 9 places before it. -/
def Obligations.DescrambledBitIsXorOfThreeReceivedBits : Prop :=
  ∀ (x : List Byte) (seed : Lfsr) (k : Nat), k + 9 < 8 * x.length →
    (bitsOfBytes (descrambleBytes seed x)).getD (k + 9) false =
      ((bitsOfBytes x).getD (k + 9) false ^^ ((bitsOfBytes x).getD (k + 5) false ^^ (bitsOfBytes x).getD k false))

/-- R177: DESCRAMBLE n completes from every state: the n descrambled bytes of IN stand in OUT, every other byte of the
window is unchanged, OUT_LEN is n and REASON is 0x00. -/
def Obligations.DescrambleWritesOut : Prop :=
  ∀ (n : BitVec 8) (s : State), ∃ t, exec (.descramble n) s = .next t ∧
    holdsOut t 0 (descrambleBytes s.seed (readIn s n.toNat)) ∧ sameOutside s t n.toNat ∧
    (descrambleBytes s.seed (readIn s n.toNat)).length = n.toNat ∧ t.outLen.toNat = n.toNat ∧
    t.status = { s.status with done := true, reason := .none } ∧ t.eng = .idle

/-- R178: VALIDATE n completes from every state: SCRAMBLER_OK says whether scrambling OUT gives IN, REASON is 0x00 or
0x02, and nothing else of the block changes. -/
def Obligations.ValidateReportsTheComparison : Prop :=
  ∀ (n : BitVec 8) (s : State),
    (scrambleBytes s.seed (readOut s n.toNat) = readIn s n.toNat →
      exec (.validate n) s = .next
        { s with status := { s.status with done := true, scramblerOk := true, reason := .none }, eng := .idle,
                 draws := s.draws + 1 }) ∧
    (scrambleBytes s.seed (readOut s n.toNat) ≠ readIn s n.toNat →
      exec (.validate n) s = .next
        { s with status := { s.status with done := true, scramblerOk := false, reason := .scramblerMismatch },
                 eng := .idle, draws := s.draws + 1 })

/-- R178's corner case: VALIDATE n after DESCRAMBLE n on the same written IN and the same SEED always reports
SCRAMBLER_OK = 1 and REASON 0x00. -/
def Obligations.ValidateAfterDescrambleSucceeds : Prop :=
  ∀ (n : BitVec 8) (s : State), (∀ i, i < n.toNat → (Memory.get? s.mem (inBase + i)).isSome = true) →
    ∃ t u, exec (.descramble n) s = .next t ∧ exec (.validate n) t = .next u ∧
      u.status.scramblerOk = true ∧ u.status.reason = .none

/-! ### Length, Hamming CRC, CRC-16/X.25 (42_crc.md) -/

/-- R191: LENGTH_DECODE completes from every state: bit `9 - k` of LENGTH is bit 7 of `IN[2 + k]`, VALID is 1, and REASON
is 0x03 exactly when the length is 0. -/
def Obligations.LengthDecodeReadsTheHeaderBits : Prop :=
  ∀ (s : State), ∃ t, exec .lengthDecode s = .next t ∧ t.payloadCount.valid = true ∧
    (∀ k, k < 10 → t.payloadCount.length.getLsbD (9 - k) = (byteAt s (inBase + 2 + k)).getLsbD 7) ∧
    t.status = { s.status with
      done := true, reason := if t.payloadCount.length = 0 then .invalidLength else .none } ∧
    t = { s with status := t.status, payloadCount := t.payloadCount, eng := .idle, draws := s.draws + 1 }

/-- R192: a byte decodes through the table entry its low 7 bits index; bit 7 is ignored. -/
def Obligations.HammingNibbleIndexesTheTable : Prop :=
  ∀ (par : Params) (e : Byte),
    par.hammingDecode[e.toNat % 128]? = some (hammingNibble par e) ∧
    hammingNibble par (e ^^^ 0x80) = hammingNibble par e

/-- R195: with the default table, every 7-bit value at distance at most 1 from the codeword of a nibble decodes to that
nibble, and every 7-bit value is so near to some codeword. -/
def Obligations.DefaultHammingTableDecodesToTheNearest : Prop :=
  (∀ (d : BitVec 4) (j : Nat), j < 7 →
    hammingNibble defaultParams (hammingEncode d) = d ∧
    hammingNibble defaultParams (hammingEncode d ^^^ BitVec.ofNat 8 (2 ^ j)) = d) ∧
  (∀ v : Byte, v.toNat < 128 → ∃ d : BitVec 4,
    v = hammingEncode d ∨ ∃ j, j < 7 ∧ v = hammingEncode d ^^^ BitVec.ofNat 8 (2 ^ j))

/-- R194: HAMMING_CRC completes from every state: nibble `3 - k` of RX, counted from the least significant, is the
decoded `IN[k]`, CALC stays, REASON is 0x00, and nothing else of the block changes. -/
def Obligations.HammingCrcConcatenatesTheNibbles : Prop :=
  ∀ (s : State), ∃ t, exec .hammingCrc s = .next t ∧
    (∀ k, k < 4 → t.fcs.rx.extractLsb' (4 * (3 - k)) 4 = hammingNibble s.par (byteAt s (inBase + k))) ∧
    t = { s with status := { s.status with done := true, reason := .none },
                 fcs := { rx := t.fcs.rx, computed := s.fcs.computed }, eng := .idle, draws := s.draws + 1 }

/-- R199: CRC_CHECK completes from every state, with and without the prefix: CALC is the CRC of the message, CRC_OK its
equality with RX, REASON 0x00 or 0x07, and nothing else of the block changes. -/
def Obligations.CrcCheckComparesWithRx : Prop :=
  ∀ (np : Bool) (n : BitVec 8) (s : State) (computed : Half),
    computed = crc16X25 ((if np then [] else s.par.ax25Prefix.toList) ++ readIn s n.toNat) →
    exec (.crcCheck np n) s = .next
      { s with
        fcs := { rx := s.fcs.rx, computed := computed }
        status :=
          { s.status with
            done := true
            crcOk := decide (computed = s.fcs.rx)
            reason := if computed = s.fcs.rx then .none else .crcMismatch }
        eng := .idle
        draws := s.draws + 1 }

/-- R196's check value, and the CRC of the empty message. -/
def Obligations.CrcCheckValue : Prop :=
  crc16X25 [0x31, 0x32, 0x33, 0x34, 0x35, 0x36, 0x37, 0x38, 0x39] = 0x906E ∧ crc16X25 [] = 0x0000

/-- From R196: a message followed by its own FCS, low byte first, always has the same CRC, 0x0F47. -/
def Obligations.CrcOfMessageWithItsFcsIsConstant : Prop :=
  ∀ m : List Byte,
    crc16X25 (m ++ [(crc16X25 m).extractLsb' 0 8, (crc16X25 m).extractLsb' 8 8]) = 0x0F47

/-- From R196: changing one byte of a message always changes its CRC. -/
def Obligations.CrcDetectsEveryOneByteChange : Prop :=
  ∀ (pre post : List Byte) (a b : Byte), a ≠ b → crc16X25 (pre ++ a :: post) ≠ crc16X25 (pre ++ b :: post)

/-! ### Reed-Solomon (40_fec.md) -/

/-- R131 and R133: the worked values of the default field and its generator polynomials; `0xFF ⊗ 0xFF` is V-GF2's. The
inverse of every nonzero element is GfMultiplicationIsAField's. -/
def Obligations.DefaultFieldWorkedValues : Prop :=
  (∀ i v, (i, v) ∈ [(1, 0x02#8), (7, 0x80), (8, 0x1D), (9, 0x3A), (25, 0x03), (255, 0x01)] →
    gfPow defaultParams 0x02 i = v) ∧
  gfMul defaultParams 0x02 0x80 = 0x1D ∧ gfMul defaultParams 0x03 0x03 = 0x05 ∧
  gfMul defaultParams 0x57 0x83 = 0x31 ∧ gfMul defaultParams 0xFF 0xFF = 0xE2 ∧
  gfInv defaultParams 0x02 = 0x8E ∧ gfInv defaultParams 0x03 = 0xF4 ∧
  rsGenerator defaultParams 2 = [0x01, 0x03, 0x02] ∧
  rsGenerator defaultParams 16 =
    [0x01, 0x3B, 0x0D, 0x68, 0xBD, 0x44, 0xD1, 0x1E, 0x08, 0xA3, 0x41, 0x29, 0xE5, 0x62, 0x32, 0x24, 0x3B]

/-- R130 and R131: for every field polynomial and primitive element that make a field, ⊗ is commutative, associative and
distributes over ⊕, 0x01 is neutral, and every nonzero element has exactly one inverse. -/
def Obligations.GfMultiplicationIsAField : Prop :=
  ∀ par : Params, rsFieldOk par = true →
    (∀ a b c : Byte, gfMul par a b = gfMul par b a ∧ gfMul par (gfMul par a b) c = gfMul par a (gfMul par b c) ∧
      gfMul par a (b ^^^ c) = gfMul par a b ^^^ gfMul par a c ∧ gfMul par a 0x01 = a ∧ gfMul par a 0 = 0) ∧
    (∀ a b : Byte, a ≠ 0 → (gfMul par a b = 0x01 ↔ b = gfInv par a))

/-- R134: the systematic block of any data is a codeword with these data first, and it is the only codeword of its length
with these data. -/
def Obligations.SystematicCodewordIsUnique : Prop :=
  ∀ (par : Params) (p : Nat) (d : List Byte), rsFieldOk par = true → p ∈ [2, 16] → d.length + p ≤ 255 →
    (rsEncode par p d).length = d.length + p ∧ (rsEncode par p d).take d.length = d ∧
    rsIsCodeword par p (rsEncode par p d) = true ∧
    ∀ c : List Byte, c.length = d.length + p → c.take d.length = d → rsIsCodeword par p c = true →
      c = rsEncode par p d

/-- R136: distinct codewords of `RS(n, p)` differ in at least `p + 1` positions, so at most one codeword is within
`t = p / 2` of any block: 1 for the header code and 8 for the payload code. -/
def Obligations.CodewordsDifferInMoreThanParityPositions : Prop :=
  ∀ (par : Params) (p n : Nat), rsFieldOk par = true → p ∈ [2, 16] → p < n → n ≤ 255 →
    (∀ a b : List Byte, a.length = n → b.length = n → rsIsCodeword par p a = true → rsIsCodeword par p b = true →
      a ≠ b → p + 1 ≤ rsDist a b) ∧
    (∀ r a b : List Byte, r.length = n → a.length = n → b.length = n → rsIsCodeword par p a = true →
      rsIsCodeword par p b = true → rsDist r a ≤ p / 2 → rsDist r b ≤ p / 2 → a = b)

/-- R140: RSDecode returns the codeword within distance t and its distance where there is one; otherwise FAIL under
RS_BEYOND_T = fail, and FAIL or any codeword with a count from 1 to t under `any`. -/
def Obligations.RsDecodeIsBoundedDistanceDecoding : Prop :=
  ∀ (par : Params) (draw p : Nat) (b : List Byte), rsFieldOk par = true → p ∈ [2, 16] → p < b.length →
    b.length ≤ 255 →
    (∀ c : List Byte, c.length = b.length → rsIsCodeword par p c = true → rsDist b c ≤ p / 2 →
      rsDecode par draw p b = .ok c (rsDist b c)) ∧
    ((∀ c : List Byte, c.length = b.length → rsIsCodeword par p c = true → p / 2 < rsDist b c) →
      (par.rsBeyondT = .fail → rsDecode par draw p b = .fail) ∧
      (par.rsBeyondT = .any → rsDecode par draw p b = .fail ∨
        ∃ c k, rsDecode par draw p b = .ok c k ∧ c.length = b.length ∧ rsIsCodeword par p c = true ∧
          1 ≤ k ∧ k ≤ p / 2))

/-- R141: whatever the field parameters, under RS_BEYOND_T = fail a decoded block is a codeword of the same length, the
correction count is its distance from the received block, over data and parity alike, and it is at most t. -/
def Obligations.CorrectionCountIsTheDistance : Prop :=
  ∀ (par : Params) (draw p : Nat) (b c : List Byte) (k : Nat), par.rsBeyondT = .fail → 1 ≤ b.length →
    rsDecode par draw p b = .ok c k →
    rsIsCodeword par p c = true ∧ c.length = b.length ∧ k = rsDist b c ∧ k ≤ p / 2

/-- R145: RS_DECODE_HDR completes from every state: on OK the 15 corrected bytes stand in OUT, OUT_LEN is 15 and HDR_CORR
is DECODED with the count; on FAIL OUT is unchanged, OUT_LEN is 0, HDR_CORR is FAILED and REASON is 0x01. -/
def Obligations.RsDecodeHdrReportsTheDecoder : Prop :=
  ∀ (s : State), ∃ t, exec .rsDecodeHdr s = .next t ∧
    (∀ c k, rsDecode s.par s.draws 2 (readIn s 15) = .ok c k →
      c.length = 15 ∧ holdsOut t 0 c ∧ sameOutside s t 15 ∧ t.outLen = 15 ∧
      corrWord t.hdrCorr = 0x100 + BitVec.ofNat 32 k ∧
      t.status = { s.status with done := true, reason := .none }) ∧
    (rsDecode s.par s.draws 2 (readIn s 15) = .fail →
      t.mem = s.mem ∧ t.outLen = 0 ∧ corrWord t.hdrCorr = 0x200 ∧
      t.status = { s.status with done := true, reason := .badHeader })

/-- R146: RS_DECODE_PAY n completes for every n from 1 to 239: on OK the n + 16 corrected bytes stand in OUT, OUT_LEN is
n + 16 and PAY_CORR is DECODED with the count; on FAIL OUT is unchanged, OUT_LEN is 0, PAY_CORR is FAILED and REASON
is 0x06. -/
def Obligations.RsDecodePayReportsTheDecoder : Prop :=
  ∀ (n : BitVec 8) (s : State), Instr.wf (.rsDecodePay n) = true → ∃ t, exec (.rsDecodePay n) s = .next t ∧
    (∀ c k, rsDecode s.par s.draws 16 (readIn s (n.toNat + 16)) = .ok c k →
      c.length = n.toNat + 16 ∧ holdsOut t 0 c ∧ sameOutside s t (n.toNat + 16) ∧ t.outLen.toNat = n.toNat + 16 ∧
      corrWord t.payCorr = 0x100 + BitVec.ofNat 32 k ∧
      t.status = { s.status with done := true, reason := .none }) ∧
    (rsDecode s.par s.draws 16 (readIn s (n.toNat + 16)) = .fail →
      t.mem = s.mem ∧ t.outLen = 0 ∧ corrWord t.payCorr = 0x200 ∧
      t.status = { s.status with done := true, reason := .payloadFecFail })

/-! ### DECODE_FRAME (43_frame_decode.md) -/

/-- R223: a frame shorter than the header block is discarded as TRUNCATED_HEADER before any decoding. -/
def Obligations.ShortFrameIsTruncatedHeader : Prop :=
  ∀ (s : State), (byteAt s inBase).toNat + 1 < hdrOffset s.par + 15 →
    exec .decodeFrame s = .next
      (discardedFrame s .truncatedHeader false notAttempted notAttempted { valid := false, length := 0 })

/-- R224, the failing case: an uncorrectable header block gives HDR_CORR = FAILED and a BAD_HEADER discard. -/
def Obligations.UncorrectableHeaderIsBadHeader : Prop :=
  ∀ (s : State), hdrOffset s.par + 15 ≤ (byteAt s inBase).toNat + 1 →
    rsDecode s.par s.draws 2 (bytesAt s (inBase + hdrOffset s.par) 15) = .fail →
    exec .decodeFrame s = .next
      (discardedFrame s .badHeader false { state := .failed, count := 0 } notAttempted { valid := false, length := 0 })

/-- R226 to R228: after a decoded header the scrambler check passes, PAYLOAD_COUNT holds the decoded length, a length of
0 is discarded as INVALID_LENGTH, and a frame with fewer than `N + 20` bytes after the header block as
INSUFFICIENT_BYTES. -/
def Obligations.BadLengthsAreDiscarded : Prop :=
  ∀ (s : State) (hc : List Byte) (k : Nat) (n : BitVec 10),
    hdrOffset s.par + 15 ≤ (byteAt s inBase).toNat + 1 →
    rsDecode s.par s.draws 2 (bytesAt s (inBase + hdrOffset s.par) 15) = .ok hc k →
    n = lengthOf (descrambleBytes s.seed (hc.take 13)) →
    (n = 0 → exec .decodeFrame s = .next
      (discardedFrame s .invalidLength true { state := .decoded, count := BitVec.ofNat 8 k } notAttempted
        { valid := true, length := n })) ∧
    (n ≠ 0 → (byteAt s inBase).toNat + 1 < hdrOffset s.par + 15 + n.toNat + 20 → exec .decodeFrame s = .next
      (discardedFrame s .insufficientBytes true { state := .decoded, count := BitVec.ofNat 8 k } notAttempted
        { valid := true, length := n }))

/-- R229, the failing case: an uncorrectable payload block gives PAY_CORR = FAILED and a PAYLOAD_FEC_FAIL discard, with no
record. -/
def Obligations.UncorrectablePayloadIsDiscarded : Prop :=
  ∀ (s : State) (hc : List Byte) (k : Nat) (n : BitVec 10),
    hdrOffset s.par + 15 + n.toNat + 20 ≤ (byteAt s inBase).toNat + 1 →
    rsDecode s.par s.draws 2 (bytesAt s (inBase + hdrOffset s.par) 15) = .ok hc k →
    n = lengthOf (descrambleBytes s.seed (hc.take 13)) → n ≠ 0 →
    rsDecode s.par s.draws 16 (bytesAt s (inBase + hdrOffset s.par + 15) (n.toNat + 16)) = .fail →
    exec .decodeFrame s = .next
      (discardedFrame s .payloadFecFail true { state := .decoded, count := BitVec.ofNat 8 k }
        { state := .failed, count := 0 } { valid := true, length := n })

/-- R230 to R233: after a decoded payload the record is assembled, whether or not the CRC matched: the five fields stand
in OUT at R233's offsets, OUT_LEN is 35 + N, FCS holds both values, RECORD is 1, PAYLOAD_VALID is CRC_OK, REASON is
0x00 or 0x07, and everything else stands. -/
def Obligations.DecodedPayloadIsAssembled : Prop :=
  ∀ (s : State) (hc pc e p : List Byte) (k m : Nat) (n : BitVec 10) (rx computed : Half),
    hdrOffset s.par + 15 + n.toNat + 20 ≤ (byteAt s inBase).toNat + 1 →
    rsDecode s.par s.draws 2 (bytesAt s (inBase + hdrOffset s.par) 15) = .ok hc k →
    n = lengthOf (descrambleBytes s.seed (hc.take 13)) → n ≠ 0 →
    rsDecode s.par s.draws 16 (bytesAt s (inBase + hdrOffset s.par + 15) (n.toNat + 16)) = .ok pc m →
    p = descrambleBytes s.seed (pc.take n.toNat) →
    e = bytesAt s (inBase + hdrOffset s.par + 15 + n.toNat + 16) 4 →
    rx = hammingFcs s.par e → computed = crc16X25 (s.par.ax25Prefix.toList ++ p) →
    ∃ t, exec .decodeFrame s = .next t ∧
      holdsOut t 0 (hc.take 13) ∧ holdsOut t 13 (hc.drop 13) ∧ holdsOut t 15 e ∧
      holdsOut t 19 (pc.drop n.toNat) ∧ holdsOut t 35 p ∧ sameOutside s t (35 + n.toNat) ∧
      t = { s with
        mem := t.mem
        hdrCorr := { state := .decoded, count := BitVec.ofNat 8 k }
        payCorr := { state := .decoded, count := BitVec.ofNat 8 m }
        payloadCount := { valid := true, length := n }
        fcs := { rx := rx, computed := computed }
        outLen := BitVec.ofNat 9 (35 + n.toNat)
        status :=
          { s.status with
            done := true
            scramblerOk := true
            crcOk := decide (rx = computed)
            record := true
            payloadValid := decide (rx = computed)
            reason := if rx = computed then .none else .crcMismatch }
        eng := .idle
        draws := s.draws + 1 }

/-- R226 and R235: DECODE_FRAME never reports SCRAMBLER_MISMATCH or ILLEGAL_COMMAND; it leaves RECORD = 0 exactly when it
discards with one of five reasons, and then OUT is not written and OUT_LEN is 0; PAYLOAD_VALID is RECORD
and CRC_OK. -/
def Obligations.DecodeFrameOutcomes : Prop :=
  ∀ (s t : State), exec .decodeFrame s = .next t →
    (t.status.record = true ∧ (t.status.reason = .none ∨ t.status.reason = .crcMismatch) ∧
        (t.status.reason = .none ↔ t.status.crcOk = true) ∧ t.status.scramblerOk = true ∨
      t.status.record = false ∧ t.status.crcOk = false ∧ t.mem = s.mem ∧ t.outLen = 0 ∧
        t.fcs = { rx := 0, computed := 0 } ∧
        t.status.reason ∈ [Reason.truncatedHeader, .badHeader, .invalidLength, .insufficientBytes, .payloadFecFail]) ∧
    t.status.payloadValid = (t.status.record && t.status.crcOk)

/-- R78: the bytes of IN beyond index LEN are ignored by DECODE_FRAME: two states that differ only in such bytes give the
same registers and the same bytes outside them. -/
def Obligations.DecodeFrameIgnoresBytesBeyondLen : Prop :=
  ∀ (s : State) (m : List Host.Cell),
    (∀ a, ¬ (inBase + (byteAt s inBase).toNat < a ∧ a < outBase) → Memory.get? m a = Memory.get? s.mem a) →
    ∃ t u, exec .decodeFrame s = .next t ∧ exec .decodeFrame { s with mem := m } = .next u ∧
      u = { t with mem := u.mem } ∧
      ∀ a, ¬ (inBase + (byteAt s inBase).toNat < a ∧ a < outBase) → Memory.get? u.mem a = Memory.get? t.mem a

/-- R236 (a): a frame built by the inverse functions decodes to a record with CRC_OK = 1 and the plaintext payload in
`OUT[35 …]`, for every seed, prefix, header, payload, HDR_OFF and field parameters, with the default Hamming table. -/
def Obligations.BuiltFrameDecodesToItsPayload : Prop :=
  ∀ (s : State) (extra : Byte) (q p : List Byte), s.par.hammingDecode = hammingDefault → q.length = 13 →
    1 ≤ p.length → hdrOffset s.par + 15 + p.length + 20 ≤ 256 →
    holdsIn s (frameOf s.par extra (headerBlock s.par s.seed q p.length) (payloadBlock s.par s.seed p)
      (encodedFcs (crc16X25 (prefixed s.par p)))) →
    ∃ t, exec .decodeFrame s = .next t ∧ t.status.record = true ∧ t.status.crcOk = true ∧
      t.status.payloadValid = true ∧ t.status.reason = .none ∧ t.hdrCorr = { state := .decoded, count := 0 } ∧
      t.payCorr = { state := .decoded, count := 0 } ∧
      t.payloadCount = { valid := true, length := BitVec.ofNat 10 p.length } ∧ t.outLen.toNat = 35 + p.length ∧
      holdsOut t 35 p

/-- R236 (b): with at most 1 wrong byte in the header block and at most 8 in the payload block the result is the same,
with the counts equal to the numbers of wrong bytes. -/
def Obligations.DamagedFrameDecodesToItsPayload : Prop :=
  ∀ (s : State) (extra : Byte) (q p hb pb : List Byte), rsFieldOk s.par = true →
    s.par.hammingDecode = hammingDefault → q.length = 13 → 1 ≤ p.length →
    hdrOffset s.par + 15 + p.length + 20 ≤ 256 →
    hb.length = 15 → rsDist hb (headerBlock s.par s.seed q p.length) ≤ 1 →
    pb.length = p.length + 16 → rsDist pb (payloadBlock s.par s.seed p) ≤ 8 →
    holdsIn s (frameOf s.par extra hb pb (encodedFcs (crc16X25 (prefixed s.par p)))) →
    ∃ t, exec .decodeFrame s = .next t ∧ t.status.record = true ∧ t.status.crcOk = true ∧
      t.status.payloadValid = true ∧ t.status.reason = .none ∧
      t.hdrCorr = { state := .decoded, count := BitVec.ofNat 8 (rsDist hb (headerBlock s.par s.seed q p.length)) } ∧
      t.payCorr = { state := .decoded, count := BitVec.ofNat 8 (rsDist pb (payloadBlock s.par s.seed p)) } ∧
      t.payloadCount = { valid := true, length := BitVec.ofNat 10 p.length } ∧ t.outLen.toNat = 35 + p.length ∧
      holdsOut t 35 p

/-! ### Invariants -/

/-- The reset state meets the invariant, for every choice of the parameters. -/
def Obligations.ResetMeetsTheInvariant : Prop :=
  ∀ par : Params, (State.resetWith par).Inv

/-- Every step from a state that meets the invariant gives one that meets it. -/
def Obligations.StepKeepsTheInvariant : Prop :=
  ∀ s t : State, s.Inv → step s = .next t → t.Inv

/-- From a state that meets the invariant a step always answers a next state, but for an access outside the window: no
command and no legal input ever stops the block (R260, R269). -/
def Obligations.InvariantStatesNeverStop : Prop :=
  ∀ s : State, s.Inv → (∀ x ∈ s.inputs, x.inWindow s.par = true) → ∃ t, step s = .next t
end

