-- ==== Sys2Proof/Laws/Codec.lean ====
section
/-! SUPPORT. The fields of a command word as arithmetic on its number (30_encoding.md rule R100). -/

namespace Sys2Proof

theorem toNat_opField (w : Word) : (opField w).toNat = w.toNat % 16 := by simp [opField]

theorem toNat_lenField (w : Word) : (lenField w).toNat = w.toNat / 256 % 256 := by
  simp [lenField, Nat.shiftRight_eq_div_pow]

theorem toNat_rsv0Field (w : Word) : (rsv0Field w).toNat = w.toNat / 32 % 8 := by
  simp [rsv0Field, Nat.shiftRight_eq_div_pow]

theorem toNat_rsv1Field (w : Word) : (rsv1Field w).toNat = w.toNat / 65536 := by
  have := w.isLt
  simp [rsv1Field, Nat.shiftRight_eq_div_pow]
  omega

theorem npField_eq (w : Word) : npField w = decide (w.toNat / 16 % 2 = 1) := by
  simp [npField, BitVec.getLsbD, Nat.testBit, Nat.shiftRight_eq_div_pow, Nat.and_comm 1]
  grind

/-- The reserved fields are zero exactly when the word's number says so. -/
theorem reserved_eq_zero (w : Word) :
    (rsv0Field w = 0 ∧ rsv1Field w = 0) ↔ w.toNat / 32 % 8 = 0 ∧ w.toNat / 65536 = 0 := by
  rw [← toNat_rsv0Field, ← toNat_rsv1Field, ← BitVec.toNat_inj, ← BitVec.toNat_inj]
  rfl

end Sys2Proof
end

