-- ==== Sys2Proof/Laws/State.lean ====
section
/-! SUPPORT. One lemma per field per named state update: what each update does to each field of State. -/

namespace Sys2Proof.Machine

open Sys2Proof.Config

/-! ### acceptCommand -/

@[simp] theorem acceptCommand_cmd (w : Word) (s : State) : (acceptCommand w s).cmd = w := rfl
@[simp] theorem acceptCommand_status (w : Word) (s : State) :
    (acceptCommand w s).status =
      { s.status with done := false, cmdErr := false, reason := .none, record := false, payloadValid := false } := rfl
@[simp] theorem acceptCommand_seed (w : Word) (s : State) : (acceptCommand w s).seed = s.seed := rfl
@[simp] theorem acceptCommand_hdrCorr (w : Word) (s : State) : (acceptCommand w s).hdrCorr = s.hdrCorr := rfl
@[simp] theorem acceptCommand_payCorr (w : Word) (s : State) : (acceptCommand w s).payCorr = s.payCorr := rfl
@[simp] theorem acceptCommand_payloadCount (w : Word) (s : State) :
    (acceptCommand w s).payloadCount = s.payloadCount := rfl
@[simp] theorem acceptCommand_fcs (w : Word) (s : State) : (acceptCommand w s).fcs = s.fcs := rfl
@[simp] theorem acceptCommand_outLen (w : Word) (s : State) : (acceptCommand w s).outLen = s.outLen := rfl
@[simp] theorem acceptCommand_mem (w : Word) (s : State) : (acceptCommand w s).mem = s.mem := rfl
@[simp] theorem acceptCommand_eng (w : Word) (s : State) :
    (acceptCommand w s).eng = .busy w (Config.completionWait s.draws) := rfl
@[simp] theorem acceptCommand_par (w : Word) (s : State) : (acceptCommand w s).par = s.par := rfl
@[simp] theorem acceptCommand_inputs (w : Word) (s : State) : (acceptCommand w s).inputs = s.inputs := rfl
@[simp] theorem acceptCommand_outbox (w : Word) (s : State) : (acceptCommand w s).outbox = s.outbox := rfl
@[simp] theorem acceptCommand_draws (w : Word) (s : State) : (acceptCommand w s).draws = s.draws := rfl

/-! ### rejectCommand -/

@[simp] theorem rejectCommand_cmd (w : Word) (s : State) : (rejectCommand w s).cmd = w := rfl
@[simp] theorem rejectCommand_status (w : Word) (s : State) :
    (rejectCommand w s).status = { s.status with done := true, cmdErr := true, reason := .illegalCommand } := rfl
@[simp] theorem rejectCommand_seed (w : Word) (s : State) : (rejectCommand w s).seed = s.seed := rfl
@[simp] theorem rejectCommand_hdrCorr (w : Word) (s : State) : (rejectCommand w s).hdrCorr = s.hdrCorr := rfl
@[simp] theorem rejectCommand_payCorr (w : Word) (s : State) : (rejectCommand w s).payCorr = s.payCorr := rfl
@[simp] theorem rejectCommand_payloadCount (w : Word) (s : State) :
    (rejectCommand w s).payloadCount = s.payloadCount := rfl
@[simp] theorem rejectCommand_fcs (w : Word) (s : State) : (rejectCommand w s).fcs = s.fcs := rfl
@[simp] theorem rejectCommand_outLen (w : Word) (s : State) : (rejectCommand w s).outLen = s.outLen := rfl
@[simp] theorem rejectCommand_mem (w : Word) (s : State) : (rejectCommand w s).mem = s.mem := rfl
@[simp] theorem rejectCommand_eng (w : Word) (s : State) : (rejectCommand w s).eng = s.eng := rfl
@[simp] theorem rejectCommand_par (w : Word) (s : State) : (rejectCommand w s).par = s.par := rfl
@[simp] theorem rejectCommand_inputs (w : Word) (s : State) : (rejectCommand w s).inputs = s.inputs := rfl
@[simp] theorem rejectCommand_outbox (w : Word) (s : State) : (rejectCommand w s).outbox = s.outbox := rfl
@[simp] theorem rejectCommand_draws (w : Word) (s : State) : (rejectCommand w s).draws = s.draws := rfl

/-! ### markHazard -/

@[simp] theorem markHazard_cmd (s : State) : (markHazard s).cmd = s.cmd := rfl
@[simp] theorem markHazard_status (s : State) : (markHazard s).status = { s.status with hazard := true } := rfl
@[simp] theorem markHazard_seed (s : State) : (markHazard s).seed = s.seed := rfl
@[simp] theorem markHazard_hdrCorr (s : State) : (markHazard s).hdrCorr = s.hdrCorr := rfl
@[simp] theorem markHazard_payCorr (s : State) : (markHazard s).payCorr = s.payCorr := rfl
@[simp] theorem markHazard_payloadCount (s : State) : (markHazard s).payloadCount = s.payloadCount := rfl
@[simp] theorem markHazard_fcs (s : State) : (markHazard s).fcs = s.fcs := rfl
@[simp] theorem markHazard_outLen (s : State) : (markHazard s).outLen = s.outLen := rfl
@[simp] theorem markHazard_mem (s : State) : (markHazard s).mem = s.mem := rfl
@[simp] theorem markHazard_eng (s : State) : (markHazard s).eng = s.eng := rfl
@[simp] theorem markHazard_par (s : State) : (markHazard s).par = s.par := rfl
@[simp] theorem markHazard_inputs (s : State) : (markHazard s).inputs = s.inputs := rfl
@[simp] theorem markHazard_outbox (s : State) : (markHazard s).outbox = s.outbox := rfl
@[simp] theorem markHazard_draws (s : State) : (markHazard s).draws = s.draws := rfl

/-! ### complete -/

@[simp] theorem complete_cmd (s : State) : (complete s).cmd = s.cmd := rfl
@[simp] theorem complete_status (s : State) : (complete s).status = { s.status with done := true } := rfl
@[simp] theorem complete_seed (s : State) : (complete s).seed = s.seed := rfl
@[simp] theorem complete_hdrCorr (s : State) : (complete s).hdrCorr = s.hdrCorr := rfl
@[simp] theorem complete_payCorr (s : State) : (complete s).payCorr = s.payCorr := rfl
@[simp] theorem complete_payloadCount (s : State) : (complete s).payloadCount = s.payloadCount := rfl
@[simp] theorem complete_fcs (s : State) : (complete s).fcs = s.fcs := rfl
@[simp] theorem complete_outLen (s : State) : (complete s).outLen = s.outLen := rfl
@[simp] theorem complete_mem (s : State) : (complete s).mem = s.mem := rfl
@[simp] theorem complete_eng (s : State) : (complete s).eng = .idle := rfl
@[simp] theorem complete_par (s : State) : (complete s).par = s.par := rfl
@[simp] theorem complete_inputs (s : State) : (complete s).inputs = s.inputs := rfl
@[simp] theorem complete_outbox (s : State) : (complete s).outbox = s.outbox := rfl
@[simp] theorem complete_draws (s : State) : (complete s).draws = s.draws + 1 := rfl

/-! ### setReason -/

@[simp] theorem setReason_cmd (r : Reason) (s : State) : (setReason r s).cmd = s.cmd := rfl
@[simp] theorem setReason_status (r : Reason) (s : State) :
    (setReason r s).status = { s.status with reason := r } := rfl
@[simp] theorem setReason_seed (r : Reason) (s : State) : (setReason r s).seed = s.seed := rfl
@[simp] theorem setReason_hdrCorr (r : Reason) (s : State) : (setReason r s).hdrCorr = s.hdrCorr := rfl
@[simp] theorem setReason_payCorr (r : Reason) (s : State) : (setReason r s).payCorr = s.payCorr := rfl
@[simp] theorem setReason_payloadCount (r : Reason) (s : State) : (setReason r s).payloadCount = s.payloadCount := rfl
@[simp] theorem setReason_fcs (r : Reason) (s : State) : (setReason r s).fcs = s.fcs := rfl
@[simp] theorem setReason_outLen (r : Reason) (s : State) : (setReason r s).outLen = s.outLen := rfl
@[simp] theorem setReason_mem (r : Reason) (s : State) : (setReason r s).mem = s.mem := rfl
@[simp] theorem setReason_eng (r : Reason) (s : State) : (setReason r s).eng = s.eng := rfl
@[simp] theorem setReason_par (r : Reason) (s : State) : (setReason r s).par = s.par := rfl
@[simp] theorem setReason_inputs (r : Reason) (s : State) : (setReason r s).inputs = s.inputs := rfl
@[simp] theorem setReason_outbox (r : Reason) (s : State) : (setReason r s).outbox = s.outbox := rfl
@[simp] theorem setReason_draws (r : Reason) (s : State) : (setReason r s).draws = s.draws := rfl

/-! ### writeOut -/

@[simp] theorem writeOut_cmd (bs : List Byte) (s : State) : (writeOut bs s).cmd = s.cmd := rfl
@[simp] theorem writeOut_status (bs : List Byte) (s : State) : (writeOut bs s).status = s.status := rfl
@[simp] theorem writeOut_seed (bs : List Byte) (s : State) : (writeOut bs s).seed = s.seed := rfl
@[simp] theorem writeOut_hdrCorr (bs : List Byte) (s : State) : (writeOut bs s).hdrCorr = s.hdrCorr := rfl
@[simp] theorem writeOut_payCorr (bs : List Byte) (s : State) : (writeOut bs s).payCorr = s.payCorr := rfl
@[simp] theorem writeOut_payloadCount (bs : List Byte) (s : State) :
    (writeOut bs s).payloadCount = s.payloadCount := rfl
@[simp] theorem writeOut_fcs (bs : List Byte) (s : State) : (writeOut bs s).fcs = s.fcs := rfl
@[simp] theorem writeOut_outLen (bs : List Byte) (s : State) :
    (writeOut bs s).outLen = BitVec.ofNat 9 bs.length := rfl
@[simp] theorem writeOut_mem (bs : List Byte) (s : State) :
    (writeOut bs s).mem = Memory.putList s.mem outBase bs := rfl
@[simp] theorem writeOut_eng (bs : List Byte) (s : State) : (writeOut bs s).eng = s.eng := rfl
@[simp] theorem writeOut_par (bs : List Byte) (s : State) : (writeOut bs s).par = s.par := rfl
@[simp] theorem writeOut_inputs (bs : List Byte) (s : State) : (writeOut bs s).inputs = s.inputs := rfl
@[simp] theorem writeOut_outbox (bs : List Byte) (s : State) : (writeOut bs s).outbox = s.outbox := rfl
@[simp] theorem writeOut_draws (bs : List Byte) (s : State) : (writeOut bs s).draws = s.draws := rfl

/-! ### clearResults -/

@[simp] theorem clearResults_cmd (s : State) : (clearResults s).cmd = s.cmd := rfl
@[simp] theorem clearResults_status (s : State) :
    (clearResults s).status = { s.status with scramblerOk := false, crcOk := false } := rfl
@[simp] theorem clearResults_seed (s : State) : (clearResults s).seed = s.seed := rfl
@[simp] theorem clearResults_hdrCorr (s : State) :
    (clearResults s).hdrCorr = { state := .notAttempted, count := 0 } := rfl
@[simp] theorem clearResults_payCorr (s : State) :
    (clearResults s).payCorr = { state := .notAttempted, count := 0 } := rfl
@[simp] theorem clearResults_payloadCount (s : State) :
    (clearResults s).payloadCount = { valid := false, length := 0 } := rfl
@[simp] theorem clearResults_fcs (s : State) : (clearResults s).fcs = { rx := 0, computed := 0 } := rfl
@[simp] theorem clearResults_outLen (s : State) : (clearResults s).outLen = 0 := rfl
@[simp] theorem clearResults_mem (s : State) : (clearResults s).mem = s.mem := rfl
@[simp] theorem clearResults_eng (s : State) : (clearResults s).eng = s.eng := rfl
@[simp] theorem clearResults_par (s : State) : (clearResults s).par = s.par := rfl
@[simp] theorem clearResults_inputs (s : State) : (clearResults s).inputs = s.inputs := rfl
@[simp] theorem clearResults_outbox (s : State) : (clearResults s).outbox = s.outbox := rfl
@[simp] theorem clearResults_draws (s : State) : (clearResults s).draws = s.draws := rfl

/-! ### discard -/

@[simp] theorem discard_cmd (r : Reason) (s : State) : (discard r s).cmd = s.cmd := rfl
@[simp] theorem discard_status (r : Reason) (s : State) :
    (discard r s).status = { s.status with reason := r, record := false, payloadValid := false } := rfl
@[simp] theorem discard_seed (r : Reason) (s : State) : (discard r s).seed = s.seed := rfl
@[simp] theorem discard_hdrCorr (r : Reason) (s : State) : (discard r s).hdrCorr = s.hdrCorr := rfl
@[simp] theorem discard_payCorr (r : Reason) (s : State) : (discard r s).payCorr = s.payCorr := rfl
@[simp] theorem discard_payloadCount (r : Reason) (s : State) : (discard r s).payloadCount = s.payloadCount := rfl
@[simp] theorem discard_fcs (r : Reason) (s : State) : (discard r s).fcs = s.fcs := rfl
@[simp] theorem discard_outLen (r : Reason) (s : State) : (discard r s).outLen = s.outLen := rfl
@[simp] theorem discard_mem (r : Reason) (s : State) : (discard r s).mem = s.mem := rfl
@[simp] theorem discard_eng (r : Reason) (s : State) : (discard r s).eng = s.eng := rfl
@[simp] theorem discard_par (r : Reason) (s : State) : (discard r s).par = s.par := rfl
@[simp] theorem discard_inputs (r : Reason) (s : State) : (discard r s).inputs = s.inputs := rfl
@[simp] theorem discard_outbox (r : Reason) (s : State) : (discard r s).outbox = s.outbox := rfl
@[simp] theorem discard_draws (r : Reason) (s : State) : (discard r s).draws = s.draws := rfl

/-! ### respond -/

@[simp] theorem respond_cmd (r : Response) (s : State) : (respond r s).cmd = s.cmd := rfl
@[simp] theorem respond_status (r : Response) (s : State) : (respond r s).status = s.status := rfl
@[simp] theorem respond_seed (r : Response) (s : State) : (respond r s).seed = s.seed := rfl
@[simp] theorem respond_hdrCorr (r : Response) (s : State) : (respond r s).hdrCorr = s.hdrCorr := rfl
@[simp] theorem respond_payCorr (r : Response) (s : State) : (respond r s).payCorr = s.payCorr := rfl
@[simp] theorem respond_payloadCount (r : Response) (s : State) : (respond r s).payloadCount = s.payloadCount := rfl
@[simp] theorem respond_fcs (r : Response) (s : State) : (respond r s).fcs = s.fcs := rfl
@[simp] theorem respond_outLen (r : Response) (s : State) : (respond r s).outLen = s.outLen := rfl
@[simp] theorem respond_mem (r : Response) (s : State) : (respond r s).mem = s.mem := rfl
@[simp] theorem respond_eng (r : Response) (s : State) : (respond r s).eng = s.eng := rfl
@[simp] theorem respond_par (r : Response) (s : State) : (respond r s).par = s.par := rfl
@[simp] theorem respond_inputs (r : Response) (s : State) : (respond r s).inputs = s.inputs := rfl
@[simp] theorem respond_outbox (r : Response) (s : State) : (respond r s).outbox = s.outbox ++ [r] := rfl
@[simp] theorem respond_draws (r : Response) (s : State) : (respond r s).draws = s.draws + 1 := rfl

/-! ### resetBlock -/

@[simp] theorem resetBlock_cmd (s : State) : (resetBlock s).cmd = (State.resetWith s.par).cmd := rfl
@[simp] theorem resetBlock_status (s : State) : (resetBlock s).status = (State.resetWith s.par).status := rfl
@[simp] theorem resetBlock_seed (s : State) : (resetBlock s).seed = (State.resetWith s.par).seed := rfl
@[simp] theorem resetBlock_hdrCorr (s : State) : (resetBlock s).hdrCorr = (State.resetWith s.par).hdrCorr := rfl
@[simp] theorem resetBlock_payCorr (s : State) : (resetBlock s).payCorr = (State.resetWith s.par).payCorr := rfl
@[simp] theorem resetBlock_payloadCount (s : State) :
    (resetBlock s).payloadCount = (State.resetWith s.par).payloadCount := rfl
@[simp] theorem resetBlock_fcs (s : State) : (resetBlock s).fcs = (State.resetWith s.par).fcs := rfl
@[simp] theorem resetBlock_outLen (s : State) : (resetBlock s).outLen = (State.resetWith s.par).outLen := rfl
@[simp] theorem resetBlock_mem (s : State) : (resetBlock s).mem = (State.resetWith s.par).mem := rfl
@[simp] theorem resetBlock_eng (s : State) : (resetBlock s).eng = (State.resetWith s.par).eng := rfl
@[simp] theorem resetBlock_par (s : State) : (resetBlock s).par = s.par := rfl
@[simp] theorem resetBlock_inputs (s : State) : (resetBlock s).inputs = s.inputs := rfl
@[simp] theorem resetBlock_outbox (s : State) : (resetBlock s).outbox = s.outbox := rfl
@[simp] theorem resetBlock_draws (s : State) : (resetBlock s).draws = s.draws + 1 := rfl

/-! ### writeSeed -/

@[simp] theorem writeSeed_cmd (w : Word) (s : State) : (writeSeed w s).cmd = s.cmd := rfl
@[simp] theorem writeSeed_status (w : Word) (s : State) : (writeSeed w s).status = s.status := rfl
@[simp] theorem writeSeed_seed (w : Word) (s : State) : (writeSeed w s).seed = w.setWidth 9 := rfl
@[simp] theorem writeSeed_hdrCorr (w : Word) (s : State) : (writeSeed w s).hdrCorr = s.hdrCorr := rfl
@[simp] theorem writeSeed_payCorr (w : Word) (s : State) : (writeSeed w s).payCorr = s.payCorr := rfl
@[simp] theorem writeSeed_payloadCount (w : Word) (s : State) : (writeSeed w s).payloadCount = s.payloadCount := rfl
@[simp] theorem writeSeed_fcs (w : Word) (s : State) : (writeSeed w s).fcs = s.fcs := rfl
@[simp] theorem writeSeed_outLen (w : Word) (s : State) : (writeSeed w s).outLen = s.outLen := rfl
@[simp] theorem writeSeed_mem (w : Word) (s : State) : (writeSeed w s).mem = s.mem := rfl
@[simp] theorem writeSeed_eng (w : Word) (s : State) : (writeSeed w s).eng = s.eng := rfl
@[simp] theorem writeSeed_par (w : Word) (s : State) : (writeSeed w s).par = s.par := rfl
@[simp] theorem writeSeed_inputs (w : Word) (s : State) : (writeSeed w s).inputs = s.inputs := rfl
@[simp] theorem writeSeed_outbox (w : Word) (s : State) : (writeSeed w s).outbox = s.outbox := rfl
@[simp] theorem writeSeed_draws (w : Word) (s : State) : (writeSeed w s).draws = s.draws := rfl

/-! ### writeInWord -/

@[simp] theorem writeInWord_cmd (off : Nat) (w : Word) (s : State) : (writeInWord off w s).cmd = s.cmd := rfl
@[simp] theorem writeInWord_status (off : Nat) (w : Word) (s : State) : (writeInWord off w s).status = s.status := rfl
@[simp] theorem writeInWord_seed (off : Nat) (w : Word) (s : State) : (writeInWord off w s).seed = s.seed := rfl
@[simp] theorem writeInWord_hdrCorr (off : Nat) (w : Word) (s : State) :
    (writeInWord off w s).hdrCorr = s.hdrCorr := rfl
@[simp] theorem writeInWord_payCorr (off : Nat) (w : Word) (s : State) :
    (writeInWord off w s).payCorr = s.payCorr := rfl
@[simp] theorem writeInWord_payloadCount (off : Nat) (w : Word) (s : State) :
    (writeInWord off w s).payloadCount = s.payloadCount := rfl
@[simp] theorem writeInWord_fcs (off : Nat) (w : Word) (s : State) : (writeInWord off w s).fcs = s.fcs := rfl
@[simp] theorem writeInWord_outLen (off : Nat) (w : Word) (s : State) : (writeInWord off w s).outLen = s.outLen := rfl
@[simp] theorem writeInWord_mem (off : Nat) (w : Word) (s : State) :
    (writeInWord off w s).mem =
      Memory.putList s.mem off [w.extractLsb' 0 8, w.extractLsb' 8 8, w.extractLsb' 16 8, w.extractLsb' 24 8] := rfl
@[simp] theorem writeInWord_eng (off : Nat) (w : Word) (s : State) : (writeInWord off w s).eng = s.eng := rfl
@[simp] theorem writeInWord_par (off : Nat) (w : Word) (s : State) : (writeInWord off w s).par = s.par := rfl
@[simp] theorem writeInWord_inputs (off : Nat) (w : Word) (s : State) : (writeInWord off w s).inputs = s.inputs := rfl
@[simp] theorem writeInWord_outbox (off : Nat) (w : Word) (s : State) : (writeInWord off w s).outbox = s.outbox := rfl
@[simp] theorem writeInWord_draws (off : Nat) (w : Word) (s : State) : (writeInWord off w s).draws = s.draws := rfl

/-! ### setLength -/

@[simp] theorem setLength_cmd (n : BitVec 10) (s : State) : (setLength n s).cmd = s.cmd := rfl
@[simp] theorem setLength_status (n : BitVec 10) (s : State) : (setLength n s).status = s.status := rfl
@[simp] theorem setLength_seed (n : BitVec 10) (s : State) : (setLength n s).seed = s.seed := rfl
@[simp] theorem setLength_hdrCorr (n : BitVec 10) (s : State) : (setLength n s).hdrCorr = s.hdrCorr := rfl
@[simp] theorem setLength_payCorr (n : BitVec 10) (s : State) : (setLength n s).payCorr = s.payCorr := rfl
@[simp] theorem setLength_payloadCount (n : BitVec 10) (s : State) :
    (setLength n s).payloadCount = { valid := true, length := n } := rfl
@[simp] theorem setLength_fcs (n : BitVec 10) (s : State) : (setLength n s).fcs = s.fcs := rfl
@[simp] theorem setLength_outLen (n : BitVec 10) (s : State) : (setLength n s).outLen = s.outLen := rfl
@[simp] theorem setLength_mem (n : BitVec 10) (s : State) : (setLength n s).mem = s.mem := rfl
@[simp] theorem setLength_eng (n : BitVec 10) (s : State) : (setLength n s).eng = s.eng := rfl
@[simp] theorem setLength_par (n : BitVec 10) (s : State) : (setLength n s).par = s.par := rfl
@[simp] theorem setLength_inputs (n : BitVec 10) (s : State) : (setLength n s).inputs = s.inputs := rfl
@[simp] theorem setLength_outbox (n : BitVec 10) (s : State) : (setLength n s).outbox = s.outbox := rfl
@[simp] theorem setLength_draws (n : BitVec 10) (s : State) : (setLength n s).draws = s.draws := rfl

/-! ### frameCrc -/

@[simp] theorem frameCrc_cmd (rx computed : Half) (s : State) : (frameCrc rx computed s).cmd = s.cmd := rfl
@[simp] theorem frameCrc_status (rx computed : Half) (s : State) :
    (frameCrc rx computed s).status = { s.status with crcOk := rx == computed } := rfl
@[simp] theorem frameCrc_seed (rx computed : Half) (s : State) : (frameCrc rx computed s).seed = s.seed := rfl
@[simp] theorem frameCrc_hdrCorr (rx computed : Half) (s : State) :
    (frameCrc rx computed s).hdrCorr = s.hdrCorr := rfl
@[simp] theorem frameCrc_payCorr (rx computed : Half) (s : State) :
    (frameCrc rx computed s).payCorr = s.payCorr := rfl
@[simp] theorem frameCrc_payloadCount (rx computed : Half) (s : State) :
    (frameCrc rx computed s).payloadCount = s.payloadCount := rfl
@[simp] theorem frameCrc_fcs (rx computed : Half) (s : State) :
    (frameCrc rx computed s).fcs = { rx := rx, computed := computed } := rfl
@[simp] theorem frameCrc_outLen (rx computed : Half) (s : State) : (frameCrc rx computed s).outLen = s.outLen := rfl
@[simp] theorem frameCrc_mem (rx computed : Half) (s : State) : (frameCrc rx computed s).mem = s.mem := rfl
@[simp] theorem frameCrc_eng (rx computed : Half) (s : State) : (frameCrc rx computed s).eng = s.eng := rfl
@[simp] theorem frameCrc_par (rx computed : Half) (s : State) : (frameCrc rx computed s).par = s.par := rfl
@[simp] theorem frameCrc_inputs (rx computed : Half) (s : State) : (frameCrc rx computed s).inputs = s.inputs := rfl
@[simp] theorem frameCrc_outbox (rx computed : Half) (s : State) : (frameCrc rx computed s).outbox = s.outbox := rfl
@[simp] theorem frameCrc_draws (rx computed : Half) (s : State) : (frameCrc rx computed s).draws = s.draws := rfl

end Sys2Proof.Machine
end

