-- ==== Sys2Proof/Laws/Memory.lean ====
section
/-! SUPPORT. Memory: read after write, write elsewhere, and that every memory operation keeps the canonical form. -/

namespace Sys2Proof.Machine

open Sys2Proof.Config

/-! ### One byte -/

@[simp] theorem Memory.get?_put_self (m : List Host.Cell) (a : Nat) (v : Byte) :
    Memory.get? (Memory.put m a v) a = some v := by
  induction m with
  | nil => simp [Memory.put, Memory.get?]
  | cons c m ih =>
    obtain ⟨b, u⟩ := c
    simp only [Memory.put]
    split
    · simp [Memory.get?]
    · split
      · simp [Memory.get?]
      · simp [Memory.get?, *]

theorem Memory.get?_put_other (m : List Host.Cell) {a b : Nat} (v : Byte) (h : b ≠ a) :
    Memory.get? (Memory.put m a v) b = Memory.get? m b := by
  induction m with
  | nil => simp [Memory.put, Memory.get?, h]
  | cons c m ih =>
    obtain ⟨d, u⟩ := c
    simp only [Memory.put]
    split
    · simp [Memory.get?, h]
    · split
      · rename_i hd
        simp [Memory.get?, h, ← hd]
      · simp [Memory.get?, ih]

theorem Memory.get?_put (m : List Host.Cell) (a b : Nat) (v : Byte) :
    Memory.get? (Memory.put m a v) b = if b = a then some v else Memory.get? m b := by
  split
  · subst b
    exact Memory.get?_put_self m a v
  · exact Memory.get?_put_other m v ‹_›

theorem Memory.mem_put {m : List Host.Cell} {a : Nat} {v : Byte} {c : Host.Cell} (h : c ∈ Memory.put m a v) :
    c = (a, v) ∨ c ∈ m := by
  induction m with
  | nil => simpa [Memory.put] using h
  | cons d m ih =>
    obtain ⟨b, u⟩ := d
    simp only [Memory.put] at h
    split at h
    · simpa using h
    · split at h
      · rcases List.mem_cons.mp h with h | h
        · exact .inl h
        · exact .inr (List.mem_cons_of_mem _ h)
      · rcases List.mem_cons.mp h with h | h
        · exact .inr (h ▸ List.mem_cons_self)
        · exact (ih h).imp id (List.mem_cons_of_mem _)

/-- A write to a buffer offset keeps the canonical form. -/
theorem Memory.wf_put {m : List Host.Cell} (h : Memory.wf m) {a : Nat} (v : Byte) (ha : inBase ≤ a)
    (hb : a < bufferEnd) : Memory.wf (Memory.put m a v) := by
  refine ⟨?_, fun c hc => ?_⟩
  · have h := h.1
    induction m with
    | nil => simp [Memory.put]
    | cons d m ih =>
      obtain ⟨b, u⟩ := d
      obtain ⟨h1, h2⟩ := List.pairwise_cons.mp h
      simp only [Memory.put]
      split
      · rename_i hlt
        refine List.pairwise_cons.mpr ⟨fun c hc => ?_, h⟩
        rcases List.mem_cons.mp hc with hc | hc
        · simpa [hc] using hlt
        · exact Nat.lt_trans hlt (h1 c hc)
      · split
        · rename_i hle heq
          exact List.pairwise_cons.mpr ⟨fun c hc => heq ▸ h1 c hc, h2⟩
        · rename_i hle hne
          refine List.pairwise_cons.mpr ⟨fun c hc => ?_, ih ⟨h2, fun c hc => by simp_all⟩ h2⟩
          rcases Memory.mem_put hc with hc | hc
          · simp only [hc]
            omega
          · exact h1 c hc
  · rcases Memory.mem_put hc with hc | hc
    · simpa [hc] using ⟨ha, hb⟩
    · exact h.2 c hc

/-! ### Several bytes -/

/-- Reading after a write of several bytes: the bytes written where they stand, the old byte elsewhere. -/
theorem Memory.get?_putList (m : List Host.Cell) (a : Nat) (vs : List Byte) (b : Nat) :
    Memory.get? (Memory.putList m a vs) b =
      if a ≤ b ∧ b < a + vs.length then vs[b - a]? else Memory.get? m b := by
  induction vs generalizing m a with
  | nil =>
    simp only [Memory.putList, List.length_nil, Nat.add_zero]
    rw [if_neg (by omega)]
  | cons v vs ih =>
    simp only [Memory.putList, ih, Memory.get?_put, List.length_cons]
    by_cases h : b = a
    · subst h
      simp
    · by_cases h' : a + 1 ≤ b ∧ b < a + 1 + vs.length
      · rw [if_pos h', if_pos (by omega), show b - a = (b - (a + 1)) + 1 by omega, List.getElem?_cons_succ]
      · rw [if_neg h', if_neg h, if_neg (by omega)]

theorem Memory.get?_putList_inside (m : List Host.Cell) (a : Nat) (vs : List Byte) {i : Nat} (h : i < vs.length) :
    Memory.get? (Memory.putList m a vs) (a + i) = vs[i]? := by
  rw [Memory.get?_putList, if_pos (by omega), Nat.add_sub_cancel_left]

theorem Memory.get?_putList_outside (m : List Host.Cell) (a : Nat) (vs : List Byte) {b : Nat}
    (h : ¬ (a ≤ b ∧ b < a + vs.length)) : Memory.get? (Memory.putList m a vs) b = Memory.get? m b := by
  rw [Memory.get?_putList, if_neg h]

/-- A write of several bytes inside the buffers keeps the canonical form. -/
theorem Memory.wf_putList {m : List Host.Cell} (h : Memory.wf m) {a : Nat} (vs : List Byte) (ha : inBase ≤ a)
    (hb : a + vs.length ≤ bufferEnd) : Memory.wf (Memory.putList m a vs) := by
  induction vs generalizing m a with
  | nil => exact h
  | cons v vs ih =>
    simp only [List.length_cons] at hb
    exact ih (Memory.wf_put h v ha (by omega)) (by omega) (by omega)

/-! ### Reading operands -/

@[simp] theorem length_bytesAt (s : State) (a n : Nat) : (bytesAt s a n).length = n := by simp [bytesAt]

@[simp] theorem length_readIn (s : State) (n : Nat) : (readIn s n).length = n := by simp [readIn]

@[simp] theorem length_readOut (s : State) (n : Nat) : (readOut s n).length = n := by simp [readOut]

theorem getElem?_bytesAt (s : State) (a n i : Nat) (h : i < n) : (bytesAt s a n)[i]? = some (byteAt s (a + i)) := by
  simp [bytesAt, h]

/-- A part of the bytes from `a` is the bytes from further on. -/
theorem slice_bytesAt (s : State) (a n off k : Nat) (h : off + k ≤ n) :
    slice (bytesAt s a n) off k = bytesAt s (a + off) k := by
  refine List.ext_getElem? fun i => ?_
  by_cases hi : i < k
  · rw [getElem?_bytesAt _ _ _ _ hi, slice, List.getElem?_take, if_pos hi, List.getElem?_drop,
      getElem?_bytesAt _ _ _ _ (by omega), Nat.add_assoc]
  · rw [List.getElem?_eq_none (by simp [slice]; omega), List.getElem?_eq_none (by simp; omega)]

/-- A byte read depends on the memory and the draw number alone. -/
theorem bytesAt_congr {s t : State} (hm : t.mem = s.mem) (hd : t.draws = s.draws) (a n : Nat) :
    bytesAt t a n = bytesAt s a n := by simp [bytesAt, byteAt, hm, hd]

/-- Written bytes are what is read. -/
theorem bytesAt_of_written {s : State} {a : Nat} {bs : List Byte}
    (h : ∀ i, i < bs.length → Memory.get? s.mem (a + i) = bs[i]?) : bytesAt s a bs.length = bs := by
  refine List.ext_getElem? fun i => ?_
  by_cases hi : i < bs.length
  · rw [getElem?_bytesAt _ _ _ _ hi, byteAt, h i hi, List.getElem?_eq_getElem hi]
    rfl
  · rw [List.getElem?_eq_none (by simp; omega), List.getElem?_eq_none (by omega)]

end Sys2Proof.Machine
end

