-- ==== Sys2Proof/Laws/ReedSolomon.lean ====
section
/-! SUPPORT. What the Reed-Solomon decoder can answer: lengths, counts and codeword membership, for every choice of the
field parameters. -/

namespace Sys2Proof.Machine

open Sys2Proof.Config

/-! ### Lengths -/

@[simp] theorem length_gfPowers (par : Params) (a : Byte) (n : Nat) (x : Byte) :
    (gfPowers par a n x).length = n := by
  induction n generalizing x with
  | zero => rfl
  | succ n ih => simp [gfPowers, ih]

theorem length_rsLocators (par : Params) {n : Nat} (h : 1 ≤ n) : (rsLocators par n).length = n := by
  simp only [rsLocators, List.length_append, List.length_reverse, length_gfPowers, List.length_singleton]
  omega

@[simp] theorem length_polyMulRoot (par : Params) (g : List Byte) (r : Byte) :
    (polyMulRoot par g r).length = g.length + 1 := by simp [polyMulRoot]

/-- `g_p` has `p + 1` coefficients (R133). -/
@[simp] theorem length_rsGenerator (par : Params) (p : Nat) : (rsGenerator par p).length = p + 1 := by
  have : ∀ (l : List Nat) (g : List Byte),
      (l.foldl (fun g i => polyMulRoot par g (rsRoot par i)) g).length = g.length + l.length := by
    intro l
    induction l with
    | nil => simp
    | cons i l ih =>
      intro g
      rw [List.foldl_cons, ih, length_polyMulRoot, List.length_cons]
      omega
  simp [rsGenerator, this]
  omega

theorem length_rsParityStep (par : Params) (g r : List Byte) (d : Byte) (h : r.length = g.length) (hg : g ≠ []) :
    (rsParityStep par g r d).length = g.length := by
  have := List.length_pos_iff.mpr hg
  simp [rsParityStep, h]
  omega

/-- There are `p` parity bytes (R134). -/
@[simp] theorem length_rsParity (par : Params) (p : Nat) (d : List Byte) : (rsParity par p d).length = p := by
  have hg : (rsGenerator par p).tail.length = p := by simp
  rcases Nat.eq_zero_or_pos p with rfl | hp
  · have : ∀ r : List Byte, r = [] → (d.foldl (rsParityStep par (rsGenerator par 0).tail) r).length = 0 := by
      induction d with
      | nil => rintro r rfl; rfl
      | cons b d ih =>
        rintro r rfl
        exact ih _ (List.length_eq_zero_iff.mp (by simp [rsParityStep]))
    exact this _ rfl
  · have hne : (rsGenerator par p).tail ≠ [] := List.length_pos_iff.mp (by omega)
    have : ∀ r : List Byte, r.length = p → (d.foldl (rsParityStep par (rsGenerator par p).tail) r).length = p := by
      induction d with
      | nil => exact fun r h => h
      | cons b d ih => exact fun r h => ih _ ((length_rsParityStep par _ r b (by omega) hne).trans hg)
    exact this _ (by simp)

@[simp] theorem length_rsEncode (par : Params) (p : Nat) (d : List Byte) :
    (rsEncode par p d).length = d.length + p := by simp [rsEncode]

theorem length_rsCorrect (par : Params) (p : Nat) {b : List Byte} (h : 1 ≤ b.length) :
    (rsCorrect par p b).length = b.length := by simp [rsCorrect, length_rsLocators par h]

/-! ### What the decoder answers -/

@[simp] theorem rsDist_self (b : List Byte) : rsDist b b = 0 := by
  simp only [rsDist, List.length_eq_zero_iff, List.filter_eq_nil_iff]
  intro q hq
  have := List.mem_iff_getElem.mp hq
  grind

/-- The `fail` branch of R140 answers a codeword at distance at most `t`, with that distance as its count. -/
theorem rsBounded_ok {par : Params} {p : Nat} {b c : List Byte} {k : Nat} (hb : 1 ≤ b.length)
    (h : rsBounded par p b = .ok c k) :
    rsIsCodeword par p c = true ∧ c.length = b.length ∧ k = rsDist b c ∧ k ≤ p / 2 := by
  simp only [rsBounded] at h
  split at h
  · cases h
    simp_all
  · split at h
    · cases h
      simp_all [length_rsCorrect]
    · cases h

/-- What RSDecode answers on OK, whatever RS_BEYOND_T: the length of the block and a count of at most `t` (for `t ≥ 1`). -/
theorem rsDecode_ok {par : Params} {draw p : Nat} {b c : List Byte} {k : Nat} (hp : 2 ≤ p) (hb : p ≤ b.length)
    (h : rsDecode par draw p b = .ok c k) : c.length = b.length ∧ k ≤ p / 2 := by
  simp only [rsDecode] at h
  split at h
  · rename_i heq
    cases h
    obtain ⟨-, h1, -, h2⟩ := rsBounded_ok (by omega) heq
    exact ⟨h1, h2⟩
  · split at h
    · cases h
    · simp only [rsBeyondDraw] at h
      split at h
      · cases h
      · cases h
        refine ⟨?_, ?_⟩
        · simp
          omega
        · have := Nat.mod_lt (Config.beyondCount draw p) (show 0 < p / 2 by omega)
          omega

end Sys2Proof.Machine
end

