-- ==== Sys2Proof/Laws/Scrambler.lean ====
section
/-! SUPPORT. The scrambler as a map of bit streams: lengths, the two bit loops undo each other, and bytes are their
bits. -/

namespace Sys2Proof.Machine

/-! ### The bit loops -/

@[simp] theorem length_descrambleBits (ds : Lfsr) (l : List Bool) : (descrambleBits ds l).length = l.length := by
  induction l generalizing ds with
  | nil => rfl
  | cons c l ih => simp [descrambleBits, ih]

@[simp] theorem length_scrambleBits (ds : Lfsr) (l : List Bool) : (scrambleBits ds l).length = l.length := by
  induction l generalizing ds with
  | nil => rfl
  | cons c l ih => simp [scrambleBits, ih]

/-- Both loops feed back the scrambled bit, so they pass through the same states. -/
@[simp] theorem scrambleBits_descrambleBits (ds : Lfsr) (l : List Bool) :
    scrambleBits ds (descrambleBits ds l) = l := by
  induction l generalizing ds with
  | nil => rfl
  | cons c l ih => simp [descrambleBits, scrambleBits, ih]

@[simp] theorem descrambleBits_scrambleBits (ds : Lfsr) (l : List Bool) :
    descrambleBits ds (scrambleBits ds l) = l := by
  induction l generalizing ds with
  | nil => rfl
  | cons c l ih => simp [descrambleBits, scrambleBits, ih]

/-! ### Bytes and their bits -/

@[simp] theorem length_bitsOfByte (b : Byte) : (bitsOfByte b).length = 8 := rfl

@[simp] theorem length_bitsOfBytes (x : List Byte) : (bitsOfBytes x).length = 8 * x.length := by
  induction x with
  | nil => rfl
  | cons b x ih =>
    rw [bitsOfBytes, List.flatMap_cons, List.length_append, length_bitsOfByte, List.length_cons, ← bitsOfBytes, ih]
    omega

@[simp] theorem length_bytesOfBits (n : Nat) (l : List Bool) : (bytesOfBits n l).length = n := by
  induction n generalizing l with
  | zero => rfl
  | succ n ih => simp [bytesOfBits, ih]

@[simp] theorem byteOfBits_bitsOfByte (b : Byte) : byteOfBits (bitsOfByte b) = b := by
  revert b
  decide +kernel

theorem bitsOfByte_byteOfBits (l : List Bool) (h : l.length = 8) : bitsOfByte (byteOfBits l) = l := by
  match l, h with
  | [a, b, c, d, e, f, g, i], _ =>
    revert a b c d e f g i
    decide +kernel

/-- Packing and unpacking a whole number of bytes gives the bits back. -/
theorem bitsOfBytes_bytesOfBits (n : Nat) (l : List Bool) (h : l.length = 8 * n) :
    bitsOfBytes (bytesOfBits n l) = l := by
  induction n generalizing l with
  | zero => simp_all [bytesOfBits, bitsOfBytes]
  | succ n ih =>
    rw [bytesOfBits, bitsOfBytes, List.flatMap_cons, ← bitsOfBytes, ih _ (by simp [h]; omega),
      bitsOfByte_byteOfBits _ (by simp [h]), List.take_append_drop]

theorem bytesOfBits_bitsOfBytes (x : List Byte) : bytesOfBits x.length (bitsOfBytes x) = x := by
  induction x with
  | nil => rfl
  | cons b x ih =>
    rw [List.length_cons, bytesOfBits, bitsOfBytes, List.flatMap_cons, ← bitsOfBytes,
      List.take_left' (length_bitsOfByte b), List.drop_left' (length_bitsOfByte b), ih, byteOfBits_bitsOfByte]

/-! ### The byte functions -/

@[simp] theorem length_descrambleBytes (seed : Lfsr) (x : List Byte) :
    (descrambleBytes seed x).length = x.length := by simp [descrambleBytes]

@[simp] theorem length_scrambleBytes (seed : Lfsr) (x : List Byte) : (scrambleBytes seed x).length = x.length := by
  simp [scrambleBytes]

/-- The bits of the descrambled bytes are the descrambled bits. -/
theorem bitsOfBytes_descrambleBytes (seed : Lfsr) (x : List Byte) :
    bitsOfBytes (descrambleBytes seed x) = descrambleBits seed (bitsOfBytes x) :=
  bitsOfBytes_bytesOfBits _ _ (by simp)

theorem bitsOfBytes_scrambleBytes (seed : Lfsr) (x : List Byte) :
    bitsOfBytes (scrambleBytes seed x) = scrambleBits seed (bitsOfBytes x) :=
  bitsOfBytes_bytesOfBits _ _ (by simp)

/-- The output bit taken in state `ds` and the states after it: bit 0 of the state is the received bits 9 and 4 places
back, once there are that many. -/
theorem descrambleBits_cons (ds : Lfsr) (c : Bool) (l : List Bool) :
    descrambleBits ds (c :: l) = (c ^^ ds.getLsbD 0) :: descrambleBits (lfsrNext ds c) l := rfl

/-- Nine received bits fix the state: it no longer depends on the state before them. -/
theorem lfsrNext_nine (ds : Lfsr) (a b c d e f g h i : Bool) :
    lfsrNext (lfsrNext (lfsrNext (lfsrNext (lfsrNext (lfsrNext (lfsrNext (lfsrNext (lfsrNext ds a) b) c) d) e) f) g) h)
      i =
    lfsrNext (lfsrNext (lfsrNext (lfsrNext (lfsrNext (lfsrNext (lfsrNext (lfsrNext (lfsrNext 0 a) b) c) d) e) f) g) h)
      i := by
  apply BitVec.eq_of_getLsbD_eq
  intro k hk
  have : k = 0 ∨ k = 1 ∨ k = 2 ∨ k = 3 ∨ k = 4 ∨ k = 5 ∨ k = 6 ∨ k = 7 ∨ k = 8 := by omega
  rcases this with rfl | rfl | rfl | rfl | rfl | rfl | rfl | rfl | rfl <;>
    simp [lfsrNext]

end Sys2Proof.Machine
end

