-- ==== Sys2Proof/Laws/Frame.lean ====
section
/-! SUPPORT. The stages of DECODE_FRAME: each stage's outcome as an equation, with the scrambler check, which always
passes, discharged once. -/

namespace Sys2Proof.Machine

open Sys2Proof.Config

theorem hdrOffset_pos (par : Params) : 1 ≤ hdrOffset par := by
  unfold hdrOffset
  split <;> omega

theorem hdrOffset_le (par : Params) : hdrOffset par ≤ 2 := by
  unfold hdrOffset
  split <;> omega

@[simp] theorem length_rawFrame (s : State) : (rawFrame s).length = (byteAt s inBase).toNat + 1 := by simp [rawFrame]

/-- A block of the frame is a run of IN bytes (R222). -/
theorem slice_rawFrame (s : State) {off n : Nat} (h : off + n ≤ (byteAt s inBase).toNat + 1) :
    slice (rawFrame s) off n = bytesAt s (inBase + off) n := slice_bytesAt s inBase _ off n h

/-- `Validate(H, Descramble(H, seed), seed)` is true: the scrambler check cannot fail (R226). -/
@[simp] theorem validateBytes_descrambleBytes (seed : Lfsr) (x : List Byte) :
    validateBytes seed x (descrambleBytes seed x) = true := by
  simp [validateBytes, scrambleBytes, bitsOfBytes_descrambleBytes, bytesOfBits_bitsOfBytes]

/-- SCRAMBLER_CHECK passes, so the stage goes on to the length checks (R226, R227). -/
theorem frameHeader_eq (f hc : List Byte) (s : State) :
    frameHeader f hc s =
      frameLength f hc (lengthOf (descrambleBytes s.seed (hc.take 13)))
        (setLength (lengthOf (descrambleBytes s.seed (hc.take 13)))
          { s with status := { s.status with scramblerOk := true } }) := by
  simp only [frameHeader, validateBytes_descrambleBytes, if_true]

/-! ### The stages as equations -/

theorem frameHeaderFec_truncated {f : List Byte} {s : State} (h : f.length < hdrOffset s.par + 15) :
    frameHeaderFec f s = discard .truncatedHeader s := by rw [frameHeaderFec, if_pos h]

theorem frameHeaderFec_fail {f : List Byte} {s : State} (h : hdrOffset s.par + 15 ≤ f.length)
    (hd : rsDecode s.par s.draws 2 (slice f (hdrOffset s.par) 15) = .fail) :
    frameHeaderFec f s = discard .badHeader { s with hdrCorr := corrFailed } := by
  rw [frameHeaderFec, if_neg (by omega), hd]

theorem frameHeaderFec_ok {f hc : List Byte} {k : Nat} {s : State} (h : hdrOffset s.par + 15 ≤ f.length)
    (hd : rsDecode s.par s.draws 2 (slice f (hdrOffset s.par) 15) = .ok hc k) :
    frameHeaderFec f s = frameHeader f hc { s with hdrCorr := corrDecoded k } := by
  rw [frameHeaderFec, if_neg (by omega), hd]

theorem frameLength_zero {f hc : List Byte} {n : BitVec 10} {s : State} (h : n = 0) :
    frameLength f hc n s = discard .invalidLength s := by rw [frameLength, if_pos h]

theorem frameLength_short {f hc : List Byte} {n : BitVec 10} {s : State} (h : n ≠ 0)
    (hs : f.length - payloadBase s.par < n.toNat + 20) :
    frameLength f hc n s = discard .insufficientBytes s := by rw [frameLength, if_neg h, if_pos hs]

theorem frameLength_ok {f hc : List Byte} {n : BitVec 10} {s : State} (h : n ≠ 0)
    (hs : n.toNat + 20 ≤ f.length - payloadBase s.par) :
    frameLength f hc n s = framePayloadFec f hc n.toNat s := by rw [frameLength, if_neg h, if_neg (by omega)]

theorem framePayloadFec_fail {f hc : List Byte} {n : Nat} {s : State}
    (hd : rsDecode s.par s.draws 16 (slice f (payloadBase s.par) (n + 16)) = .fail) :
    framePayloadFec f hc n s = discard .payloadFecFail { s with payCorr := corrFailed } := by
  rw [framePayloadFec, hd]

theorem framePayloadFec_ok {f hc pc : List Byte} {n m : Nat} {s : State}
    (hd : rsDecode s.par s.draws 16 (slice f (payloadBase s.par) (n + 16)) = .ok pc m) :
    framePayloadFec f hc n s = framePayload f hc pc n { s with payCorr := corrDecoded m } := by
  rw [framePayloadFec, hd]

/-- R233: the record's length, for blocks of the lengths the decoder answers. -/
theorem length_outRecord {hc e pc p : List Byte} {n : Nat} (hhc : hc.length = 15) (he : e.length = 4)
    (hpc : pc.length = n + 16) (hp : p.length = n) : (outRecord hc e pc n p).length = 35 + n := by
  simp [outRecord, hhc, he, hpc, hp]
  omega

end Sys2Proof.Machine
end

