-- ==== Sys2Proof/Laws/DecodeFrame.lean ====
section
/-! SUPPORT. The inversion of DECODE_FRAME: what the whole command can answer, said once. -/

namespace Sys2Proof.Machine

open Sys2Proof.Config

/-- A correction register after a stage whose code corrects at most `t` bytes. -/
def Corr.within (t : Nat) (c : Corr) : Prop :=
  c = notAttempted ∨ c = corrFailed ∨ ∃ k, k ≤ t ∧ c = corrDecoded k

/-- The state in which DECODE_FRAME hands the decoded payload codeword to its last stages. -/
def beforePayload (s : State) (k m : Nat) (n : BitVec 10) : State :=
  { clearResults s with
    hdrCorr := corrDecoded k
    payCorr := corrDecoded m
    payloadCount := { valid := true, length := n }
    status := { (clearResults s).status with scramblerOk := true } }

/-- DECODE_FRAME discards with one of five reasons, or it assembles a record from decoded blocks that fit. -/
theorem decodeFrame_cases (s : State) :
    (∃ r so hdr pay cnt, r ∈ [Reason.truncatedHeader, .badHeader, .invalidLength, .insufficientBytes, .payloadFecFail] ∧
      Corr.within 1 hdr ∧ Corr.within 8 pay ∧ (cnt.valid = false → cnt.length = 0) ∧
      exec .decodeFrame s = .next (discardedFrame s r so hdr pay cnt)) ∨
    (∃ hc k pc m n, hc.length = 15 ∧ k ≤ 1 ∧ pc.length = BitVec.toNat n + 16 ∧ m ≤ 8 ∧
      payloadBase s.par + BitVec.toNat n + 20 ≤ (byteAt s inBase).toNat + 1 ∧
      exec .decodeFrame s =
        .next (complete (framePayload (rawFrame s) hc pc (BitVec.toNat n) (beforePayload s k m n)))) := by
  by_cases h : (byteAt s inBase).toNat + 1 < hdrOffset s.par + 15
  · have e : frameHeaderFec (rawFrame s) (clearResults s) = _ := frameHeaderFec_truncated (by simpa using h)
    exact .inl ⟨.truncatedHeader, false, notAttempted, notAttempted, ⟨false, 0⟩, by simp, .inl rfl, .inl rfl,
      fun _ => rfl, by rw [exec, execDecodeFrame, e]; rfl⟩
  have hlt := (byteAt s inBase).isLt
  cases hd : rsDecode s.par s.draws 2 (bytesAt s (inBase + hdrOffset s.par) 15) with
  | fail =>
    have e : frameHeaderFec (rawFrame s) (clearResults s) = _ := frameHeaderFec_fail (by simp; omega)
      (by rw [slice_rawFrame s (by simp; omega)]; simpa using hd)
    exact .inl ⟨.badHeader, false, corrFailed, notAttempted, ⟨false, 0⟩, by simp, .inr (.inl rfl), .inl rfl,
      fun _ => rfl, by rw [exec, execDecodeFrame, e]; rfl⟩
  | ok hc k =>
    have e : frameHeaderFec (rawFrame s) (clearResults s) = _ := frameHeaderFec_ok (hc := hc) (k := k)
      (by simp; omega) (by rw [slice_rawFrame s (by simp; omega)]; simpa using hd)
    obtain ⟨l1, l2⟩ := rsDecode_ok (by omega) (by simp) hd
    rw [length_bytesAt] at l1
    rw [frameHeader_eq] at e
    simp only [clearResults_seed] at e
    generalize lengthOf (descrambleBytes s.seed (hc.take 13)) = n at e
    have w1 : Corr.within 1 (corrDecoded k) := .inr (.inr ⟨k, by omega, rfl⟩)
    by_cases h0 : n = 0
    · rw [frameLength_zero h0] at e
      exact .inl ⟨.invalidLength, true, corrDecoded k, notAttempted, ⟨true, n⟩, by simp, w1, .inl rfl,
        by simp, by rw [exec, execDecodeFrame, e]; rfl⟩
    by_cases hs : (byteAt s inBase).toNat + 1 - payloadBase s.par < n.toNat + 20
    · rw [frameLength_short h0 (by simpa using hs)] at e
      exact .inl ⟨.insufficientBytes, true, corrDecoded k, notAttempted, ⟨true, n⟩, by simp, w1, .inl rfl,
        by simp, by rw [exec, execDecodeFrame, e]; rfl⟩
    rw [frameLength_ok h0 (by simpa using hs)] at e
    cases hp : rsDecode s.par s.draws 16 (bytesAt s (inBase + payloadBase s.par) (n.toNat + 16)) with
    | fail =>
      rw [framePayloadFec_fail (by simpa [slice_rawFrame s (show payloadBase s.par + (n.toNat + 16) ≤ _ by omega)]
        using hp)] at e
      exact .inl ⟨.payloadFecFail, true, corrDecoded k, corrFailed, ⟨true, n⟩, by simp, w1, .inr (.inl rfl),
        by simp, by rw [exec, execDecodeFrame, e]; rfl⟩
    | ok pc m =>
      rw [framePayloadFec_ok (pc := pc) (m := m)
        (by simpa [slice_rawFrame s (show payloadBase s.par + (n.toNat + 16) ≤ _ by omega)] using hp)] at e
      obtain ⟨l3, l4⟩ := rsDecode_ok (by omega) (by simp) hp
      rw [length_bytesAt] at l3
      exact .inr ⟨hc, k, pc, m, n, l1, l2, l3, l4, by omega, by rw [exec, execDecodeFrame, e]; rfl⟩

/-- The record of the last stages is 35 bytes and the payload (R233). -/
theorem framePayload_record {f hc pc : List Byte} {n : Nat} {s : State} (hhc : hc.length = 15)
    (hpc : pc.length = n + 16) (hf : payloadBase s.par + n + 20 ≤ f.length) :
    ∃ record, record.length = 35 + n ∧
      framePayload f hc pc n s =
        assemble record (frameCrc (hammingFcs s.par (slice f (payloadBase s.par + n + 16) 4))
          (crc16X25 (prefixed s.par (descrambleBytes s.seed (pc.take n)))) s) :=
  ⟨_, length_outRecord hhc (by simp [slice]; omega) hpc (by simp; omega), rfl⟩

end Sys2Proof.Machine
end

