-- ==== Sys2Proof/Laws/Step.lean ====
section
/-! SUPPORT. The step's parts as inversions: what the window, one host access, one input and the choice of the acting
agent can do, each said once. -/

namespace Sys2Proof.Machine

open Sys2Proof.Config

/-! ### The window -/

theorem windowOffset_off (par : Params) {off : Nat} (h : off < 0x1000) :
    windowOffset par (par.base + off) = some off := by
  simp only [windowOffset]
  rw [if_pos (by omega), Nat.add_sub_cancel_left]

@[simp] theorem windowOffset_base (par : Params) : windowOffset par par.base = some 0 :=
  windowOffset_off par (off := 0) (by decide)

theorem windowOffset_eq_some {par : Params} {addr off : Nat} :
    windowOffset par addr = some off ↔ addr = par.base + off ∧ off < 0x1000 := by
  simp only [windowOffset]
  split
  · simp only [Option.some.injEq]
    omega
  · simp only [reduceCtorEq, false_iff]
    omega

theorem windowOffset_eq_none {par : Params} {addr : Nat} :
    windowOffset par addr = none ↔ addr < par.base ∨ par.base + 0x1000 ≤ addr := by
  simp only [windowOffset]
  split
  · simp only [reduceCtorEq, false_iff]
    omega
  · simp only [true_iff]
    omega

/-! ### Access checks -/

theorem busError_eq_false {off bits : Nat} : busError off bits = false ↔ bits = 32 ∧ off % 4 = 0 := by
  simp [busError]

theorem busy_eq_true {s : State} : busy s = true ↔ ∃ pend k, s.eng = .busy pend k := by
  simp only [busy]
  split <;> simp_all

theorem busy_eq_false {s : State} : busy s = false ↔ s.eng = .idle := by
  simp only [busy]
  split <;> simp_all

/-! ### Reads and writes -/

/-- A read only answers (R77). -/
theorem hostRead_eq (off bits : Nat) (s : State) : ∃ r, hostRead off bits s = respond r s := by
  simp only [hostRead]
  split <;> exact ⟨_, rfl⟩

/-- Reads above the registers: the buffers and the reserved space. -/
theorem registerRead_high (s : State) {off : Nat} (h : 0x020 ≤ off) :
    registerRead s off =
      if inBase ≤ off ∧ off < outBase then bufferWord s off
      else if outBase ≤ off ∧ off < bufferEnd then (if busy s then Config.freeWord s.draws else bufferWord s off)
      else 0 := by
  simp only [registerRead]
  repeat rw [if_neg (show ¬ (off = _) by omega)]

theorem issueCommand_legal {w : Word} {i : Instr} (h : decode w = .ok i) (s : State) :
    issueCommand w s = acceptCommand w s := by rw [issueCommand, h]

theorem issueCommand_illegal {w : Word} {e : Illegal} (h : decode w = .error e) (s : State) :
    issueCommand w s = rejectCommand w s := by rw [issueCommand, h]

/-- All that an aligned write to an IDLE block can do. -/
theorem registerWrite_cases (off : Nat) (w : Word) (s : State) :
    (off = 0x000 ∧ (∃ i, decode w = .ok i) ∧ registerWrite off w s = acceptCommand w s) ∨
    (off = 0x000 ∧ (∃ e, decode w = .error e) ∧ registerWrite off w s = rejectCommand w s) ∨
    (off = 0x008 ∧ registerWrite off w s = writeSeed w s) ∨
    (inBase ≤ off ∧ off < outBase ∧ registerWrite off w s = writeInWord off w s) ∨
    (off ≠ 0x000 ∧ off ≠ 0x008 ∧ ¬ (inBase ≤ off ∧ off < outBase) ∧ registerWrite off w s = s) := by
  by_cases h0 : off = 0x000
  · cases hd : decode w with
    | ok i => exact .inl ⟨h0, ⟨i, rfl⟩, by rw [registerWrite, if_pos h0, issueCommand_legal hd]⟩
    | error e => exact .inr (.inl ⟨h0, ⟨e, rfl⟩, by rw [registerWrite, if_pos h0, issueCommand_illegal hd]⟩)
  · by_cases h8 : off = 0x008
    · exact .inr (.inr (.inl ⟨h8, by rw [registerWrite, if_neg h0, if_pos h8]⟩))
    · by_cases hi : inBase ≤ off ∧ off < outBase
      · exact .inr (.inr (.inr (.inl ⟨hi.1, hi.2, by rw [registerWrite, if_neg h0, if_neg h8, if_pos hi]⟩)))
      · exact .inr (.inr (.inr (.inr ⟨h0, h8, hi, by rw [registerWrite, if_neg h0, if_neg h8, if_neg hi]⟩)))

/-- All that a host write can do, in the order of R266. -/
theorem hostWrite_cases (off bits : Nat) (w : Word) (s : State) :
    ((bits ≠ 32 ∨ off % 4 ≠ 0) ∧ hostWrite off bits w s = respond .writeError s) ∨
    (bits = 32 ∧ off % 4 = 0 ∧ busy s = true ∧ hostWrite off bits w s = respond .written (markHazard s)) ∨
    (bits = 32 ∧ off % 4 = 0 ∧ busy s = false ∧
      hostWrite off bits w s = respond .written (registerWrite off w s)) := by
  cases hb : busError off bits with
  | true => exact .inl ⟨by simpa [busError] using hb, by rw [hostWrite, if_pos hb]⟩
  | false =>
    obtain ⟨h1, h2⟩ := busError_eq_false.mp hb
    cases hu : busy s with
    | true => exact .inr (.inl ⟨h1, h2, rfl, by rw [hostWrite, if_neg (by simp [hb]), if_pos hu]⟩)
    | false => exact .inr (.inr ⟨h1, h2, rfl, by rw [hostWrite, if_neg (by simp [hb]), if_neg (by simp [hu])]⟩)

/-! ### One input, one step -/

/-- All that serving one input can do when it answers a next state. -/
theorem serveInput_cases {i : Input} {s t : State} (h : serveInput i s = .next t) :
    (i = .reset ∧ t = resetBlock s) ∨
    (∃ off bits, off < 0x1000 ∧ i = .read (s.par.base + off) bits ∧ ∃ r, t = respond r s) ∨
    (∃ off bits w, off < 0x1000 ∧ i = .write (s.par.base + off) bits w ∧ t = hostWrite off bits w s) := by
  cases i with
  | reset =>
    cases h
    exact .inl ⟨rfl, rfl⟩
  | read addr bits =>
    simp only [serveInput] at h
    split at h
    · rename_i off ho
      obtain ⟨rfl, hlt⟩ := windowOffset_eq_some.mp ho
      obtain ⟨r, hr⟩ := hostRead_eq off bits s
      cases h
      exact .inr (.inl ⟨off, bits, hlt, rfl, r, hr⟩)
    · cases h
  | write addr bits w =>
    simp only [serveInput] at h
    split at h
    · rename_i off ho
      obtain ⟨rfl, hlt⟩ := windowOffset_eq_some.mp ho
      cases h
      exact .inr (.inr ⟨off, bits, w, hlt, rfl, rfl⟩)
    · cases h

/-- Who acts in a step (R81, R299). -/
theorem turn_cases (s : State) :
    (∃ pend k, s.eng = .busy pend k ∧ (k = 0 ∨ s.inputs = []) ∧ turn s = .engine pend) ∨
    (∃ pend k i rest, s.eng = .busy pend (k + 1) ∧ s.inputs = i :: rest ∧
      turn s = .host i { s with inputs := rest, eng := .busy pend k }) ∨
    (∃ i rest, s.eng = .idle ∧ s.inputs = i :: rest ∧ turn s = .host i { s with inputs := rest }) ∨
    (s.eng = .idle ∧ s.inputs = [] ∧ turn s = .quiet) := by
  cases he : s.eng with
  | idle =>
    cases hi : s.inputs with
    | nil => simp [turn, he, hi]
    | cons i rest => simp [turn, he, hi]
  | busy pend k =>
    cases hi : s.inputs with
    | nil => cases k <;> simp [turn, he, hi]
    | cons i rest => cases k <;> simp [turn, he, hi]

/-- All that a step can do when it answers a next state. -/
theorem step_cases {s t : State} (h : step s = .next t) :
    (∃ pend k i, s.eng = .busy pend k ∧ (k = 0 ∨ s.inputs = []) ∧ decode pend = .ok i ∧ exec i s = .next t) ∨
    (∃ pend k i rest, s.eng = .busy pend (k + 1) ∧ s.inputs = i :: rest ∧
      serveInput i { s with inputs := rest, eng := .busy pend k } = .next t) ∨
    (∃ i rest, s.eng = .idle ∧ s.inputs = i :: rest ∧ serveInput i { s with inputs := rest } = .next t) ∨
    (s.eng = .idle ∧ s.inputs = [] ∧ t = s) := by
  simp only [step] at h
  rcases turn_cases s with ⟨pend, k, he, hk, ht⟩ | ⟨pend, k, i, rest, he, hi, ht⟩ | ⟨i, rest, he, hi, ht⟩ | ⟨he, hi, ht⟩
  · rw [ht] at h
    simp only [runPending] at h
    split at h
    · rename_i i hd
      exact .inl ⟨pend, k, i, he, hk, hd, h⟩
    · cases h
  · rw [ht] at h
    exact .inr (.inl ⟨pend, k, i, rest, he, hi, h⟩)
  · rw [ht] at h
    exact .inr (.inr (.inl ⟨i, rest, he, hi, h⟩))
  · rw [ht] at h
    cases h
    exact .inr (.inr (.inr ⟨he, hi, rfl⟩))

end Sys2Proof.Machine
end

