-- ==== Sys2Proof/Laws/Words.lean ====
section
/-! SUPPORT. The register words as numbers, field by field, and which word stands at which offset. -/

namespace Sys2Proof.Machine

open Sys2Proof.Config

/-! ### The words as numbers -/

theorem toNat_corrWord (c : Corr) : (corrWord c).toNat = c.count.toNat + 2 ^ 8 * (corrStateCode c.state).toNat := by
  simp only [corrWord, BitVec.toNat_append, BitVec.toNat_ofNat, Nat.zero_mod, Nat.zero_shiftLeft, Nat.zero_or]
  rw [← Nat.shiftLeft_add_eq_or_of_lt c.count.isLt, Nat.shiftLeft_eq]
  omega

theorem toNat_payloadCountWord (c : PayloadCount) :
    (payloadCountWord c).toNat = c.length.toNat + 2 ^ 16 * c.valid.toNat := by
  simp only [payloadCountWord, BitVec.toNat_append, BitVec.toNat_ofNat, BitVec.toNat_ofBool, Nat.zero_mod,
    Nat.zero_shiftLeft, Nat.zero_or, Nat.or_zero]
  rw [← Nat.shiftLeft_add_eq_or_of_lt c.length.isLt, Nat.shiftLeft_eq, Nat.shiftLeft_eq]
  omega

theorem toNat_fcsWord (f : Fcs) : (fcsWord f).toNat = f.rx.toNat + 2 ^ 16 * f.computed.toNat := by
  simp only [fcsWord, BitVec.toNat_append]
  rw [← Nat.shiftLeft_add_eq_or_of_lt f.rx.isLt, Nat.shiftLeft_eq]
  omega

@[simp] theorem toNat_seedWord (s : State) : (seedWord s).toNat = s.seed.toNat := by
  have := s.seed.isLt
  simp [seedWord]
  omega

@[simp] theorem toNat_outLenWord (s : State) : (outLenWord s).toNat = s.outLen.toNat := by
  have := s.outLen.isLt
  simp [outLenWord]
  omega

/-! ### Which word stands where (R32, R296) -/

@[simp] theorem registerRead_cmd (s : State) : registerRead s 0x000 = s.cmd := rfl

theorem registerRead_status (s : State) :
    registerRead s 0x004 = if busy s then busyStatusWord s (Config.freeWord s.draws) else statusWord s := rfl

@[simp] theorem registerRead_seed (s : State) : registerRead s 0x008 = seedWord s := rfl

theorem registerRead_hdrCorr (s : State) :
    registerRead s 0x00C = if busy s then Config.freeWord s.draws else corrWord s.hdrCorr := rfl

theorem registerRead_payCorr (s : State) :
    registerRead s 0x010 = if busy s then Config.freeWord s.draws else corrWord s.payCorr := rfl

theorem registerRead_payloadCount (s : State) :
    registerRead s 0x014 = if busy s then Config.freeWord s.draws else payloadCountWord s.payloadCount := rfl

theorem registerRead_fcs (s : State) :
    registerRead s 0x018 = if busy s then Config.freeWord s.draws else fcsWord s.fcs := rfl

theorem registerRead_outLen (s : State) :
    registerRead s 0x01C = if busy s then Config.freeWord s.draws else outLenWord s := rfl

/-- The read word depends neither on the inputs to come nor on the wait. -/
theorem registerRead_serving (s : State) (off : Nat) (pend : Word) (k : Nat) (rest : List Input)
    (h : s.eng = .busy pend (k + 1)) :
    registerRead { s with inputs := rest, eng := .busy pend k } off = registerRead s off := by
  simp [registerRead, busy, h, busyStatusWord, seedWord, bufferWord, byteAt]

end Sys2Proof.Machine
end

