-- ==== Sys2Proof/Tests/Slice0.lean ====
section
/-! SUPPORT. Tests of single steps. Every expected value is the spec's own: the vectors of 95_test_vectors.md (named
V-… in the comments) or a rule's worked example. The AX25_PREFIX of the test machine is the spec's illustrative one,
16 zero bytes, its BASE is 0x4000; the other parameters are the defaults. -/

namespace Sys2Proof.Tests

set_option Elab.async false

open Sys2Proof.Config Sys2Proof.Machine

/-! ### The test machine -/

/-- The parameters of 95_test_vectors.md. -/
def testParams : Params := { defaultParams with ax25Prefix := Vector.replicate 16 0, base := 0x4000 }

/-- A reset machine with these bytes written to `IN[0 …]`. -/
def withIn (par : Params) (bs : List Byte) : State :=
  { State.resetWith par with mem := Memory.putList [] inBase bs }

/-- A property of the next state; false where there is none. -/
def nextHas (o : Host.Outcome State Fault Refusal) (p : State → Bool) : Bool :=
  match o with
  | .next t => p t
  | .fault _ => false
  | .refused _ => false

/-- `OUT[off … off + n - 1]`, where written. -/
def outBytes (s : State) (off n : Nat) : List (Option Byte) :=
  (List.range n).map fun i => Memory.get? s.mem (outBase + off + i)

/-! ### Well-formedness: an ill-formed command for each check, and the bounds -/

theorem test_wf_refuses_pay_0 : Instr.wf (.rsDecodePay 0) = false := by decide
theorem test_wf_refuses_pay_240 : Instr.wf (.rsDecodePay 240) = false := by decide
theorem test_wf_accepts_pay_bounds : Instr.wf (.rsDecodePay 1) = true ∧ Instr.wf (.rsDecodePay 239) = true := by decide

/-! ### Decoding: words written out from the pattern `0000000000000000 LLLLLLLL 000N OOOO` (R100; V-CW1 to V-CW20) -/

theorem test_decode_frame : decode 0b00000000000000000000000000000001 = .ok .decodeFrame := by decide
theorem test_decode_rs_hdr : decode 0b00000000000000000000000000000010 = .ok .rsDecodeHdr := by decide
theorem test_decode_rs_pay_20 : decode 0b00000000000000000001010000000011 = .ok (.rsDecodePay 20) := by decide
theorem test_decode_rs_pay_239 : decode 0b00000000000000001110111100000011 = .ok (.rsDecodePay 239) := by decide
theorem test_decode_descramble : decode 0b00000000000000000000110100000100 = .ok (.descramble 13) := by decide
theorem test_decode_validate : decode 0b00000000000000000000010000000101 = .ok (.validate 4) := by decide
theorem test_decode_length : decode 0b00000000000000000000000000000110 = .ok .lengthDecode := by decide
theorem test_decode_hamming : decode 0b00000000000000000000000000000111 = .ok .hammingCrc := by decide
theorem test_decode_crc : decode 0b00000000000000000000100100001000 = .ok (.crcCheck false 9) := by decide
theorem test_decode_crc_np : decode 0b00000000000000000000100100011000 = .ok (.crcCheck true 9) := by decide
theorem test_decode_rejects :
    decode 0x00000000 = .error .reservedOpcode ∧ decode 0x00000009 = .error .reservedOpcode ∧
    decode 0x0000000F = .error .reservedOpcode ∧ decode 0x00000101 = .error .lenNotZero ∧
    decode 0x00000012 = .error .npNotZero ∧ decode 0x00000003 = .error .lenOutOfRange ∧
    decode 0x0000F003 = .error .lenOutOfRange ∧ decode 0x00000021 = .error .reservedBits ∧
    decode 0x00010001 = .error .reservedBits ∧ decode 0x80000908 = .error .reservedBits := by decide
theorem test_encode_examples : encode (.descramble 13) = 0x00000D04 ∧ encode (.crcCheck true 9) = 0x00000918 := by decide
theorem test_decodeTableWord : decodeTableWord 32 0x1403 = some (.rsDecodePay 20) ∧ decodeTableWord 32 0 = none := by
  decide

/-! ### Functions -/

/-- V-GF2. -/
theorem test_gfMul : gfMul testParams 0x57 0x83 = 0x31 ∧ gfMul testParams 0xFF 0xFF = 0xE2 := by decide +kernel
/-- The default field polynomial and primitive element make a field; 0x11B with α = 0x02 does not. -/
theorem test_rsFieldOk : rsFieldOk testParams = true ∧ rsFieldOk { testParams with rsPrimPoly := 0x11B } = false := by
  decide +kernel
/-- The parity of V-RP7 (data 01) and of the header of V-E1. -/
theorem test_rsParity :
    rsParity testParams 16 [0x01] =
      [0x3B, 0x0D, 0x68, 0xBD, 0x44, 0xD1, 0x1E, 0x08, 0xA3, 0x41, 0x29, 0xE5, 0x62, 0x32, 0x24, 0x3B] ∧
    rsParity testParams 2 [0x0F, 0x70, 0xB3, 0x6F, 0x43, 0x98, 0x48, 0x26, 0x74, 0xF5, 0x28, 0x15, 0x5F] =
      [0x27, 0xD2] := by decide +kernel
/-- V-DS12, seed 0x0AA, and V-DS9. -/
theorem test_scrambler :
    descrambleBytes 0x0AA [0x12, 0x34, 0x56, 0x78, 0x9A] = [0x46, 0x1E, 0x09, 0x34, 0x2F] ∧
    scrambleBytes 0x000 [0x01, 0x02, 0x03] = [0x01, 0x13, 0xB1] := by decide +kernel
/-- V-CR1, V-CR2, V-CR4 and V-CR6. -/
theorem test_crc16X25 :
    crc16X25 [0x31, 0x32, 0x33, 0x34, 0x35, 0x36, 0x37, 0x38, 0x39] = 0x906E ∧ crc16X25 [] = 0x0000 ∧
    crc16X25 [0xFF] = 0xFF00 ∧ crc16X25 (List.replicate 16 0x00) = 0xAFA9 := by decide +kernel
/-- §3.6: 0xA5C3 encodes to 5A 25 6C 13. -/
theorem test_encodedFcs : encodedFcs 0xA5C3 = [0x5A, 0x25, 0x6C, 0x13] := by decide

/-! ### Commands -/

/-- V-RH5: two errors miscorrect to a codeword that differs in byte 2. -/
theorem test_rsDecodeHdr_miscorrects :
    nextHas (exec .rsDecodeHdr (withIn testParams
      [0x0E, 0x73, 0xB3, 0x6F, 0x43, 0x98, 0x48, 0x26, 0x74, 0xF5, 0x28, 0x15, 0x5F, 0x27, 0xD2]))
      (fun t => outBytes t 0 4 == [some 0x0E, some 0x73, some 0xB1, some 0x6F] && t.outLen == 15 &&
        corrWord t.hdrCorr == 0x00000101 && statusWord t == 0x00000001) = true := by decide +kernel

/-- V-RH4: two errors fail, OUT is not written. -/
theorem test_rsDecodeHdr_fails :
    nextHas (exec .rsDecodeHdr (withIn testParams
      [0x0E, 0x71, 0xB3, 0x6F, 0x43, 0x98, 0x48, 0x26, 0x74, 0xF5, 0x28, 0x15, 0x5F, 0x27, 0xD2]))
      (fun t => outBytes t 0 1 == [none] && t.outLen == 0 && corrWord t.hdrCorr == 0x00000200 &&
        statusWord t == 0x00000101) = true := by decide +kernel

/-- V-RP2: eight errors, five in data and three in parity, are corrected and counted. -/
theorem test_rsDecodePay_corrects_eight :
    nextHas (exec (.rsDecodePay 20) (withIn testParams
      [0xB5, 0x43, 0x57, 0x96, 0x1F, 0x35, 0x0D, 0x1F, 0xCA, 0x88, 0x0F, 0xB0, 0x63, 0xCC, 0xE7, 0x56, 0x6C, 0x29,
       0x52, 0xD0, 0x07, 0xD7, 0xFA, 0x12, 0xC0, 0x52, 0x48, 0xDD, 0x97, 0xEC, 0xE6, 0xE3, 0x6F, 0xD6, 0x71, 0xA2]))
      (fun t => outBytes t 0 5 == [some 0x4A, some 0x43, some 0x57, some 0x96, some 0xE0] &&
        outBytes t 28 2 == [some 0x68, some 0xEC] && t.outLen == 36 && corrWord t.payCorr == 0x00000108 &&
        statusWord t == 0x00000001) = true := by decide +kernel

/-- V-RP7: the shortest payload block, a codeword. -/
theorem test_rsDecodePay_codeword :
    nextHas (exec (.rsDecodePay 1) (withIn testParams
      [0x01, 0x3B, 0x0D, 0x68, 0xBD, 0x44, 0xD1, 0x1E, 0x08, 0xA3, 0x41, 0x29, 0xE5, 0x62, 0x32, 0x24, 0x3B]))
      (fun t => outBytes t 0 2 == [some 0x01, some 0x3B] && t.outLen == 17 && corrWord t.payCorr == 0x00000100) =
      true := by decide +kernel

/-- V-DS14. -/
theorem test_descramble :
    nextHas (exec (.descramble 4) (withIn testParams [0x00, 0x00, 0x00, 0x00]))
      (fun t => outBytes t 0 5 == [some 0x0F, some 0x80, some 0x00, some 0x00, none] && t.outLen == 4) = true := by
  decide +kernel

/-- A machine after V-DS14: IN holds `x`, OUT holds 0F 80 00 00. -/
def afterDescramble (x : List Byte) : State :=
  { withIn testParams x with mem := Memory.putList (Memory.putList [] inBase x) outBase [0x0F, 0x80, 0x00, 0x00] }

/-- V-DS15 and V-DS16. -/
theorem test_validate :
    nextHas (exec (.validate 4) (afterDescramble [0x00, 0x00, 0x00, 0x00])) (fun t => statusWord t == 0x00010001) = true ∧
    nextHas (exec (.validate 4) (afterDescramble [0x01, 0x00, 0x00, 0x00])) (fun t => statusWord t == 0x00000201) =
      true := by decide +kernel

/-- V-DS17: the seed at the time VALIDATE runs counts. -/
theorem test_validate_uses_current_seed :
    nextHas (exec (.validate 4) { afterDescramble [0x00, 0x00, 0x00, 0x00] with seed := 0 })
      (fun t => statusWord t == 0x00000201) = true := by decide +kernel

/-- V-LN6. -/
theorem test_lengthDecode_219 :
    nextHas (exec .lengthDecode (withIn testParams
      [0x00, 0x00, 0x00, 0x00, 0x80, 0x80, 0x00, 0x80, 0x80, 0x00, 0x80, 0x80, 0x00]))
      (fun t => payloadCountWord t.payloadCount == 0x000100DB && statusWord t == 0x00000001) = true := by decide +kernel

/-- V-LN8: bit 7 of bytes 0, 1 and 12 does not count. -/
theorem test_lengthDecode_zero :
    nextHas (exec .lengthDecode (withIn testParams
      [0x80, 0x80, 0x00, 0x00, 0x00, 0x00, 0x00, 0x00, 0x00, 0x00, 0x00, 0x00, 0x80]))
      (fun t => payloadCountWord t.payloadCount == 0x00010000 && statusWord t == 0x00000301) = true := by decide +kernel

/-- V-HM2: bit 7 ignored, one-bit errors corrected; CALC kept (P3). -/
theorem test_hammingCrc :
    nextHas (exec .hammingCrc { withIn testParams [0xC9, 0x04, 0x16, 0x0E] with fcs := { rx := 0, computed := 0x906E } })
      (fun t => fcsWord t.fcs == 0x906E906E && statusWord t == 0x00000001) = true := by decide +kernel

/-- V-HM6: a two-bit error gives a wrong nibble without any indication. -/
theorem test_hammingCrc_two_bits :
    nextHas (exec .hammingCrc (withIn testParams [0x4A, 0x00, 0x36, 0x0E])) (fun t => t.fcs.rx == 0xA06E) = true := by
  decide +kernel

/-- V-CR9. -/
theorem test_crcCheck_np :
    nextHas (exec (.crcCheck true 9) { withIn testParams [0x31, 0x32, 0x33, 0x34, 0x35, 0x36, 0x37, 0x38, 0x39] with
      fcs := { rx := 0x906E, computed := 0 } })
      (fun t => fcsWord t.fcs == 0x906E906E && statusWord t == 0x00020001) = true := by decide +kernel

/-- V-CR11: the prefix alone. -/
theorem test_crcCheck_prefix :
    nextHas (exec (.crcCheck false 0) (withIn testParams []))
      (fun t => fcsWord t.fcs == 0xAFA90000 && statusWord t == 0x00000701) = true := by decide +kernel

/-- The frame of V-E1. -/
def frameE1 : List Byte :=
  [0x38, 0x00, 0x0F, 0x70, 0xB3, 0x6F, 0x43, 0x98, 0x48, 0x26, 0x74, 0xF5, 0x28, 0x15, 0x5F, 0x27] ++
  [0xD2, 0x4A, 0x43, 0x57, 0x96, 0xE0, 0x35, 0x0D, 0x1F, 0x35, 0x88, 0x0F, 0xB0, 0x9C, 0xCC, 0xE7] ++
  [0x56, 0x93, 0x29, 0x52, 0xD0, 0xF8, 0xD7, 0xFA, 0x12, 0x3F, 0x52, 0x48, 0xDD, 0x68, 0xEC, 0xE6] ++
  [0xE3, 0x6F, 0xD6, 0x71, 0xA2, 0x1D, 0x6C, 0x0E, 0x13]

/-- The plaintext payload of V-E1, "ABCDEFGHIJKLMNOPQRST". -/
def payloadE1 : List Byte := (List.range 20).map fun i => BitVec.ofNat 8 (0x41 + i)

/-- V-E1, the end-to-end scenario. -/
theorem test_decodeFrame :
    nextHas (exec .decodeFrame (withIn testParams frameE1))
      (fun t => statusWord t == 0x000F0001 && corrWord t.hdrCorr == 0x00000100 && corrWord t.payCorr == 0x00000100 &&
        payloadCountWord t.payloadCount == 0x00010014 && fcsWord t.fcs == 0xDCE3DCE3 && t.outLen == 55 &&
        outBytes t 13 7 == [some 0x27, some 0xD2, some 0x1D, some 0x6C, some 0x0E, some 0x13, some 0xF8] &&
        outBytes t 35 20 == payloadE1.map some) = true := by decide +kernel

/-- V-F13: the same frame without EXTRA, with HDR_OFF = 1, and a wrong FCS as in V-F8 (E = 71 62 13 54). -/
theorem test_decodeFrame_hdrOff_1 :
    nextHas (exec .decodeFrame (withIn { testParams with hdrOff := .one }
      (0x37 :: (frameE1.drop 2).take 51 ++ [0x71, 0x62, 0x13, 0x54])))
      (fun t => statusWord t == 0x00050701 && fcsWord t.fcs == 0xDCE31234 && t.outLen == 55) = true := by decide +kernel

/-- The frame builder of §2 gives the frame of V-E1. -/
theorem test_frameOf :
    frameOf testParams 0 (headerBlock testParams 0x1F0 (List.replicate 13 0) 20)
      (payloadBlock testParams 0x1F0 payloadE1) (encodedFcs (crc16X25 (prefixed testParams payloadE1))) = frameE1 := by
  decide +kernel

/-! ### The host bus -/

/-- A reset machine with these host inputs. -/
def withInputs (l : List Input) : State := { State.resetWith testParams with inputs := l }

/-- §3.9: an illegal word from reset leaves STATUS = 0x00000F05 and stands in CMD. -/
theorem test_illegal_word :
    nextHas (step (withInputs [.write 0x4000 32 0x00000009]))
      (fun t => statusWord t == 0x00000F05 && t.cmd == 0x00000009) = true := by decide +kernel

/-- A legal word from reset is accepted: BUSY = 1, DONE = 0. -/
theorem test_accept :
    nextHas (step (withInputs [.write 0x4000 32 0x00000001]))
      (fun t => statusWord t == 0x00000002 && t.cmd == 0x00000001) = true := by decide +kernel

/-- P1's first write: IN[0..3] = 38 00 0F 70 from the word 0x700F0038. -/
theorem test_in_write_little_endian :
    nextHas (step (withInputs [.write 0x4100 32 0x700F0038]))
      (fun t => t.mem == [(0x100, 0x38), (0x101, 0x00), (0x102, 0x0F), (0x103, 0x70)]) = true := by decide +kernel

/-- A machine that runs DECODE_FRAME and has a SEED write to serve before the completion (P4, case (a)). -/
def busyMachine : State :=
  { withInputs [.write 0x4008 32 0] with cmd := 1, eng := .busy 1 1 }

/-- P4, case (a): the SEED write while BUSY is ignored and sets HAZARD. -/
theorem test_write_while_busy :
    nextHas (step busyMachine)
      (fun t => t.seed == 0x1F0 && t.status.hazard && t.eng == .busy 1 0 && t.outbox == [.written]) = true := by
  decide +kernel

/-- A misaligned write gets the error response and sets no HAZARD, also while BUSY. -/
theorem test_bus_error_while_busy :
    nextHas (step { busyMachine with inputs := [.write 0x4009 32 0] })
      (fun t => t.outbox == [.writeError] && !t.status.hazard) = true := by decide +kernel

/-- A SEED read after reset. -/
theorem test_read_seed :
    nextHas (step (withInputs [.read 0x4008 32])) (fun t => t.outbox == [.data 0x000001F0]) = true := by decide +kernel

/-- The reset input abandons a command and clears HAZARD. -/
theorem test_reset_input :
    nextHas (step { busyMachine with
      inputs := [.reset], seed := 5, status := { busyMachine.status with hazard := true } })
      (fun t => t.seed == 0x1F0 && !t.status.hazard && t.eng == .idle) = true := by decide +kernel

/-- A word placed for the next step runs there: V-LN2's verdict needs IN written. -/
theorem test_withFetchWord :
    nextHas (step ((withIn testParams (List.replicate 13 0)).withFetchWord 32 0x00000006))
      (fun t => payloadCountWord t.payloadCount == 0x00010000 && statusWord t == 0x00000301 && t.cmd == 6) = true := by
  decide +kernel

end Sys2Proof.Tests
end

