-- ==== Sys2Proof/Tests/Witnesses.lean ====
section
/-! SUPPORT. For each statement with hypotheses, a concrete state and operands that meet all of them: `witness_X` is for
`Obligations.X`; a second theorem of the name stands for a second clause. The frames are those of 95_test_vectors.md. -/

namespace Sys2Proof.Tests

set_option Elab.async false

open Sys2Proof.Config Sys2Proof.Machine

theorem get?_withIn (par : Params) (bs : List Byte) {i : Nat} (h : i < bs.length) :
    Memory.get? (withIn par bs).mem (inBase + i) = bs[i]? := Memory.get?_putList_inside _ _ _ h

/-! ### Command words -/

theorem witness_DecodeOfEncodeIsTheCommand :
    Instr.wf (.rsDecodePay 1) = true ∧ Instr.wf (.rsDecodePay 239) = true ∧ Instr.wf (.crcCheck true 255) = true := by
  decide
theorem witness_DecodeAcceptsExactlyTheLegalityTable :
    legalByTable 0x0000EF03 = true ∧ decode 0x0000EF03 = .ok (.rsDecodePay 239) ∧
    legalByTable 0x0000F003 = false ∧ decode 0x0000F003 = .error .lenOutOfRange := by decide
theorem witness_DecodeNamesTheCommandOfTheWord :
    decode 0x00000103 = .ok (.rsDecodePay 1) ∧ commandNumber (.rsDecodePay 1) = 0x103 ∧
    decode 0x0000FF18 = .ok (.crcCheck true 255) ∧ commandNumber (.crcCheck true 255) = 0xFF18 := by decide

/-! ### Reset, steps and progress -/

/-- Reads at both ends of the registers after reset. -/
theorem witness_ResetGivesTheStatedValues :
    registerRead (State.resetWith testParams) 0x000 = 0 ∧ registerRead (State.resetWith testParams) 0x008 = 0x1F0 ∧
    registerRead (State.resetWith testParams) 0x0FF = 0 := by decide +kernel
/-- A busy block with HAZARD set whose next input is the reset, and an idle one. -/
def resetWhileBusy : State :=
  { busyMachine with inputs := [.reset, .reset], status := { busyMachine.status with hazard := true } }
theorem witness_ResetInputAbandonsAndOnlyItClearsHazard :
    resetWhileBusy.inputs = .reset :: [.reset] ∧ resetWhileBusy.eng = .busy 1 (0 + 1) ∧
    resetWhileBusy.status.hazard = true ∧ nextHas (step resetWhileBusy) (fun t => !t.status.hazard) = true ∧
    (withInputs [.reset]).eng = .idle ∧ (withInputs [.reset]).inputs = .reset :: [] := by decide +kernel
/-- The engine acts when its wait is over, and when no input is left. -/
theorem witness_StepRunsThePendingCommand :
    { busyMachine with eng := .busy 1 0 }.eng = .busy 1 0 ∧ decode 1 = .ok .decodeFrame ∧
    { busyMachine with inputs := [] }.eng = .busy 1 1 ∧ { busyMachine with inputs := [] }.inputs = [] := by
  decide +kernel
theorem witness_StepServesInputsInOrder :
    (withInputs [.reset]).eng = .idle ∧ (withInputs [.reset]).inputs = .reset :: [] ∧
    busyMachine.eng = .busy 1 (0 + 1) ∧ busyMachine.inputs = .write 0x4008 32 0 :: [] ∧
    (withInputs []).eng = .idle ∧ (withInputs []).inputs = [] := by decide +kernel
theorem witness_BusyEngineEventuallyCompletes :
    busyMachine.eng = .busy 1 1 ∧ (∃ i, decode 1 = .ok i) ∧
    ∀ x ∈ busyMachine.inputs, x.inWindow busyMachine.par = true := ⟨rfl, ⟨.decodeFrame, rfl⟩, by decide +kernel⟩

/-! ### The host bus -/

theorem witness_LegalCommandWriteIsAccepted :
    (withInputs [.write 0x4000 32 0x0000EF03]).eng = .idle ∧ decode 0x0000EF03 = .ok (.rsDecodePay 239) ∧
    (withInputs [.write 0x4000 32 0x0000EF03]).inputs =
      .write (withInputs [.write 0x4000 32 0x0000EF03]).par.base 32 0x0000EF03 :: [] := by decide +kernel
theorem witness_IllegalCommandWriteIsRejected :
    (withInputs [.write 0x4000 32 0x0000F003]).eng = .idle ∧ legalByTable (0x0000F003#32).toNat = false ∧
    (withInputs [.write 0x4000 32 0x0000F003]).inputs =
      .write (withInputs [.write 0x4000 32 0x0000F003]).par.base 32 0x0000F003 :: [] := by decide +kernel
/-- Offsets 0x008 and 0xFFC. -/
theorem witness_WriteWhileBusyOnlySetsHazard :
    busyMachine.eng = .busy 1 (0 + 1) ∧ busyMachine.inputs = .write (busyMachine.par.base + 0x008) 32 0 :: [] ∧
    { busyMachine with inputs := [.write 0x4FFC 32 1] }.inputs =
      .write (busyMachine.par.base + 0xFFC) 32 1 :: [] := by decide +kernel
theorem witness_BusErrorChangesNothing : (16 ≠ 32 ∨ 0 % 4 ≠ 0) ∧ (32 ≠ 32 ∨ 0xFFF % 4 ≠ 0) := by decide
/-- CMD writes that each check turns away, and one accepted. -/
theorem witness_CommandWriteChecksInOrder :
    (8 ≠ 32) ∧ busy busyMachine = true ∧ busy (withInputs []) = false ∧ legalByTable 1 = true ∧
    legalByTable 0 = false := by decide +kernel
/-- The first and the last buffer word. -/
theorem witness_BufferWordsAreLittleEndian :
    (withInputs []).eng = .idle ∧
    Memory.get? (hostWrite (0x100 + 4 * 0) 32 0x700F0038 (withInputs [])).mem 0x100 = some 0x38 ∧
    Memory.get? (hostWrite (0x100 + 4 * 63) 32 0x700F0038 (withInputs [])).mem 0x1FF = some 0x70 := by decide +kernel
theorem witness_SeedHoldsNineBits :
    (withInputs []).eng = .idle ∧ (hostWrite 0x008 32 0xFFFFFFFF (withInputs [])).seed = 0x1FF ∧
    busy busyMachine = true := by decide +kernel
/-- STATUS, the last result register, reserved space, OUT and the last offset. -/
theorem witness_ReadOnlyAndReservedOffsetsIgnoreWrites :
    (withInputs []).eng = .idle ∧ ∀ off ∈ [0x004, 0x01C, 0x020, 0x0FC, 0x200, 0x2FC, 0x300, 0xFFC],
      off < 0x1000 ∧ off % 4 = 0 ∧ off ≠ 0x000 ∧ off ≠ 0x008 ∧ ¬ (0x100 ≤ off ∧ off < 0x200) := by decide +kernel
theorem witness_ReservedSpaceReadsZero :
    (∀ off ∈ [0x020, 0x0FC, 0x300, 0xFFC], ((0x020 ≤ off ∧ off < 0x100) ∨ (0x300 ≤ off ∧ off < 0x1000)) ∧ off % 4 = 0) ∧
    (withInputs []).eng = .idle := by decide +kernel
theorem witness_HostReadsHaveNoSideEffect :
    (withInputs [.read 0x4000 32, .read 0x4FFF 8]).eng = .idle ∧
    (withInputs [.read 0x4000 32, .read 0x4FFF 8]).inputs = .read (0x4000 + 0) 32 :: [.read 0x4FFF 8] ∧
    (withInputs [.read 0x4FFF 8]).inputs = .read ((withInputs [.read 0x4FFF 8]).par.base + 0xFFF) 8 :: [] ∧
    { busyMachine with inputs := [.read 0x4004 32] }.inputs = .read (busyMachine.par.base + 0x004) 32 :: [] ∧
    { busyMachine with inputs := [.read 0x4004 32] }.eng = .busy 1 (0 + 1) := by
  decide +kernel
theorem busyMachine_inv : busyMachine.Inv := by
  constructor <;> simp [busyMachine, withInputs, State.resetWith, busy, Memory.wf]
  exact ⟨.decodeFrame, rfl⟩
/-- An idle machine whose result registers all differ. -/
def idleResults : State :=
  { withInputs [] with
    cmd := 1, hdrCorr := { state := .failed, count := 0 }, payCorr := { state := .decoded, count := 8 }
    payloadCount := { valid := true, length := 20 }, fcs := { rx := 0x1234, computed := 0xDCE3 }, outLen := 55 }
/-- The words are those of V-F8 and V-RP2, with V-F7's state code. -/
theorem witness_RegistersReadWhileIdle :
    idleResults.eng = .idle ∧ idleResults.hdrCorr.state = .failed ∧ idleResults.payCorr.state = .decoded ∧
    registerRead idleResults 0x000 = 0x00000001 ∧ registerRead idleResults 0x00C = 0x00000200 ∧
    registerRead idleResults 0x010 = 0x00000108 ∧ registerRead idleResults 0x014 = 0x00010014 ∧
    registerRead idleResults 0x018 = 0xDCE31234 ∧ registerRead idleResults 0x01C = 0x00000037 := by decide +kernel
theorem witness_ReadsWhileBusy :
    busy busyMachine = true ∧ busyMachine.Inv ∧ busyMachine.eng = .busy 1 1 ∧
    ((0x020 ≤ 0x0FC ∧ 0x0FC < 0x100) ∨ (0x300 ≤ 0x0FC ∧ 0x0FC < 0x1000)) ∧
    ((0x020 ≤ 0xFFC ∧ 0xFFC < 0x100) ∨ (0x300 ≤ 0xFFC ∧ 0xFFC < 0x1000)) :=
  ⟨by decide +kernel, busyMachine_inv, rfl, by decide, by decide⟩
/-- The first and the last code. -/
theorem witness_StatusWordShowsTheFlags :
    (withInputs []).eng = .idle ∧ (withInputs []).status.reason = .none ∧
    (registerRead (withInputs []) 0x004).toNat = 0 ∧
    (rejectCommand 9 (withInputs [])).eng = .idle ∧ (rejectCommand 9 (withInputs [])).status.reason = .illegalCommand ∧
    (registerRead (rejectCommand 9 (withInputs [])) 0x004).toNat = 0x00000F05 := by decide +kernel
theorem witness_WindowIsFourKilobytesAtBase :
    windowOffset testParams 0x4000 = some 0 ∧ windowOffset testParams 0x4FFF = some 0xFFF ∧
    0x3FFF < testParams.base ∧ testParams.base + 0x1000 ≤ 0x5000 := by decide +kernel

/-! ### The engine as a whole -/

theorem witness_EngineWritesOnlyOutAndResults :
    (∃ t, exec .decodeFrame (withIn testParams frameE1) = .next t) ∧
    Instr.wf (.rsDecodePay 239) = true ∧ (∃ t, exec (.rsDecodePay 239) (withIn testParams []) = .next t) :=
  ⟨⟨_, rfl⟩, by decide, ⟨_, rfl⟩⟩
theorem witness_PrimitiveCommandsLeaveOtherResults :
    (∃ t, exec .rsDecodeHdr (withIn testParams []) = .next t) ∧
    (Instr.wf (.rsDecodePay 1) = true ∧ ∃ t, exec (.rsDecodePay 1) (withIn testParams []) = .next t) ∧
    (∃ t, exec (.descramble 0) (withIn testParams []) = .next t) ∧
    (∃ t, exec (.validate 255) (withIn testParams []) = .next t) ∧
    (∃ t, exec .lengthDecode (withIn testParams []) = .next t) ∧
    (∃ t, exec .hammingCrc (withIn testParams []) = .next t) ∧
    (∃ t, exec (.crcCheck true 0) (withIn testParams []) = .next t) :=
  ⟨⟨_, rfl⟩, ⟨by decide, ⟨_, rfl⟩⟩, ⟨_, rfl⟩, ⟨_, rfl⟩, ⟨_, rfl⟩, ⟨_, rfl⟩, ⟨_, rfl⟩⟩

/-! ### Descrambler and CRC -/

theorem witness_DescrambleSynchronizesAfterNineBits :
    (bitsOfBytes (descrambleBytes 0x1F0 [0x00, 0x40]))[9]? = some true ∧
    (bitsOfBytes (descrambleBytes 0x000 [0x00, 0x40]))[9]? = some true := by decide +kernel
theorem witness_DescrambledBitIsXorOfThreeReceivedBits : 0 + 9 < 8 * [0x00#8, 0x40].length := by decide
/-- V-DS15 meets the first clause, V-DS16 the second. -/
theorem witness_ValidateReportsTheComparison :
    scrambleBytes (afterDescramble [0, 0, 0, 0]).seed (readOut (afterDescramble [0, 0, 0, 0]) (4#8).toNat) =
      readIn (afterDescramble [0, 0, 0, 0]) (4#8).toNat ∧
    scrambleBytes (afterDescramble [1, 0, 0, 0]).seed (readOut (afterDescramble [1, 0, 0, 0]) (4#8).toNat) ≠
      readIn (afterDescramble [1, 0, 0, 0]) (4#8).toNat := by decide +kernel
theorem witness_ValidateAfterDescrambleSucceeds :
    ∀ i, i < (255#8).toNat →
      (Memory.get? (withIn testParams (List.replicate 255 (0#8))).mem (inBase + i)).isSome = true := by
  intro i hi
  have h : i < (List.replicate 255 (0#8)).length := by
    rw [List.length_replicate]
    exact hi
  rw [get?_withIn testParams _ h, List.getElem?_eq_getElem h, Option.isSome_some]
theorem witness_CrcCheckComparesWithRx :
    0x906E#16 = crc16X25 ((if true then [] else testParams.ax25Prefix.toList) ++
      readIn (withIn testParams [0x31, 0x32, 0x33, 0x34, 0x35, 0x36, 0x37, 0x38, 0x39]) (9#8).toNat) ∧
    0xAFA9#16 = crc16X25 ((if false then [] else (withIn testParams []).par.ax25Prefix.toList) ++
      readIn (withIn testParams []) (0#8).toNat) := by decide +kernel
theorem witness_CrcDetectsEveryOneByteChange : (0x00#8) ≠ 0x01 := by decide

/-! ### Reed-Solomon -/

theorem witness_GfMultiplicationIsAField : rsFieldOk testParams = true ∧ (0x02#8) ≠ 0 ∧ gfMul testParams 0x02 0x8E = 1 := by
  decide +kernel
/-- The shortest blocks, and the longest. -/
theorem witness_SystematicCodewordIsUnique :
    rsFieldOk testParams = true ∧ ([] : List Byte).length + 2 ≤ 255 ∧ (List.replicate 239 (0#8)).length + 16 ≤ 255 ∧
    rsEncode testParams 2 [1] = [1, 3, 2] ∧ rsIsCodeword testParams 2 [1, 3, 2] = true ∧
    [1#8, 3, 2].take 1 = [1] := by decide +kernel
theorem witness_CodewordsDifferInMoreThanParityPositions :
    rsFieldOk testParams = true ∧ 2 < [1#8, 3, 2].length ∧ [1#8, 3, 2].length ≤ 255 ∧
    rsIsCodeword testParams 2 [1, 3, 2] = true ∧ rsIsCodeword testParams 2 [0, 0, 0] = true ∧ [1#8, 3, 2] ≠ [0, 0, 0] ∧
    rsDist [1, 3, 0] [1, 3, 2] ≤ 2 / 2 := by decide +kernel
theorem witness_RsDecodeIsBoundedDistanceDecoding :
    rsFieldOk testParams = true ∧ 2 < [1#8, 3, 0].length ∧ [1#8, 3, 0].length ≤ 255 ∧
    [1#8, 3, 2].length = [1#8, 3, 0].length ∧ rsIsCodeword testParams 2 [1, 3, 2] = true ∧
    rsDist [1, 3, 0] [1, 3, 2] ≤ 2 / 2 := by decide +kernel
/-- The block 01 01 00 is further than 1 from every codeword of RS(3, 2), under either RS_BEYOND_T. -/
theorem witness_RsDecodeIsBoundedDistanceDecoding_beyond (par : Params)
    (hpar : par = testParams ∨ par = { testParams with rsBeyondT := .any }) :
    rsFieldOk par = true ∧ 2 < [1#8, 1, 0].length ∧
    ∀ c : List Byte, c.length = [1#8, 1, 0].length → rsIsCodeword par 2 c = true → 2 / 2 < rsDist [1, 1, 0] c := by
  have near : ∀ x : Byte, rsIsCodeword par 2 [x, 1, 0] = false ∧ rsIsCodeword par 2 [1, x, 0] = false ∧
      rsIsCodeword par 2 [1, 1, x] = false := by
    have same : ∀ (m : BeyondT) (c : List Byte),
        rsIsCodeword { testParams with rsBeyondT := m } 2 c = rsIsCodeword testParams 2 c := fun _ _ => rfl
    have h : ∀ x : Byte, rsIsCodeword testParams 2 [x, 1, 0] = false ∧ rsIsCodeword testParams 2 [1, x, 0] = false ∧
        rsIsCodeword testParams 2 [1, 1, x] = false := by decide +kernel
    rcases hpar with rfl | rfl
    · exact h
    · simpa only [same] using h
  refine ⟨by rcases hpar with rfl | rfl <;> decide +kernel, by decide, ?_⟩
  intro c hc hw
  match c, hc with
  | [x, y, z], _ =>
    simp only [rsDist, List.zip_cons_cons, List.zip_nil_right, List.filter_cons, List.filter_nil, bne_iff_ne]
    have h : ¬ (y = 1 ∧ z = 0) ∧ ¬ (x = 1 ∧ z = 0) ∧ ¬ (x = 1 ∧ y = 1) := by
      refine ⟨?_, ?_, ?_⟩ <;> rintro ⟨rfl, rfl⟩
      · exact absurd hw (by rw [(near x).1]; decide)
      · exact absurd hw (by rw [(near y).2.1]; decide)
      · exact absurd hw (by rw [(near z).2.2]; decide)
    clear near hw hpar
    by_cases h1 : x = 1#8 <;> by_cases h2 : y = 1#8 <;> by_cases h3 : z = 0#8 <;> 
      simp [h1, h2, h3, @eq_comm _ (1#8), @eq_comm _ (0#8)] at h ⊢
theorem witness_CorrectionCountIsTheDistance :
    testParams.rsBeyondT = .fail ∧ 1 ≤ [1#8, 3, 0].length ∧ rsDecode testParams 0 2 [1, 3, 0] = .ok [1, 3, 2] 1 := by
  decide +kernel
/-- V-RH3's kind, one wrong byte, and V-RH4. -/
theorem witness_RsDecodeHdrReportsTheDecoder :
    rsDecode testParams 0 2 (readIn (withIn testParams
      [0x0E, 0x70, 0xB3, 0x6F, 0x43, 0x98, 0x48, 0x26, 0x74, 0xF5, 0x28, 0x15, 0x5F, 0x27, 0xD2]) 15) =
      .ok [0x0F, 0x70, 0xB3, 0x6F, 0x43, 0x98, 0x48, 0x26, 0x74, 0xF5, 0x28, 0x15, 0x5F, 0x27, 0xD2] 1 ∧
    rsDecode testParams 0 2 (readIn (withIn testParams
      [0x0E, 0x71, 0xB3, 0x6F, 0x43, 0x98, 0x48, 0x26, 0x74, 0xF5, 0x28, 0x15, 0x5F, 0x27, 0xD2]) 15) = .fail := by
  decide +kernel
/-- V-RP7, and its block with nine bytes wrong. -/
def payloadBlock1 : List Byte :=
  [0x01, 0x3B, 0x0D, 0x68, 0xBD, 0x44, 0xD1, 0x1E, 0x08, 0xA3, 0x41, 0x29, 0xE5, 0x62, 0x32, 0x24, 0x3B]
def damagedBlock1 : List Byte := (payloadBlock1.take 9).map (· ^^^ 0xFF) ++ payloadBlock1.drop 9
theorem witness_RsDecodePayReportsTheDecoder :
    Instr.wf (.rsDecodePay 1) = true ∧
    rsDecode testParams 0 16 (readIn (withIn testParams payloadBlock1) ((1#8).toNat + 16)) = .ok payloadBlock1 0 := by
  decide +kernel
theorem damagedBlock1_fails : rsDecode testParams 0 16 damagedBlock1 = .fail := by decide +kernel
theorem witness_RsDecodePayReportsTheDecoder_fails :
    rsDecode testParams 0 16 (readIn (withIn testParams damagedBlock1) ((1#8).toNat + 16)) = .fail := by
  have e : readIn (withIn testParams damagedBlock1) ((1#8).toNat + 16) = damagedBlock1 := by decide +kernel
  rw [e, damagedBlock1_fails]

/-! ### DECODE_FRAME -/

/-- The machine with V-E1's frame in IN. -/
def machineE1 : State := withIn testParams frameE1
/-- V-E1's header codeword. -/
def headerE1 : List Byte := (frameE1.drop 2).take 15
/-- V-E1's payload codeword. -/
def blockE1 : List Byte := (frameE1.drop 17).take 36

/-- V-F2, and V-F1, one byte short of the header block. -/
theorem witness_ShortFrameIsTruncatedHeader :
    (byteAt (withIn testParams [0x00]) inBase).toNat + 1 < hdrOffset testParams + 15 ∧
    (byteAt (withIn testParams (0x0F :: (frameE1.drop 1).take 15)) inBase).toNat + 1 < hdrOffset testParams + 15 := by
  decide +kernel
/-- V-F3. -/
def machineF3 : State := withIn testParams ([0x38, 0x00, 0x0E, 0x71] ++ frameE1.drop 4)
theorem witness_UncorrectableHeaderIsBadHeader :
    hdrOffset machineF3.par + 15 ≤ (byteAt machineF3 inBase).toNat + 1 ∧
    rsDecode machineF3.par machineF3.draws 2 (bytesAt machineF3 (inBase + hdrOffset machineF3.par) 15) = .fail := by
  decide +kernel
/-- V-F4 up to its header block: a header that carries the length 0. -/
def machineF4 : State := withIn testParams ([0x24, 0x00] ++ headerBlock testParams 0x1F0 (List.replicate 13 0) 0)
/-- V-F5: the last byte is missing. -/
def machineF5 : State := withIn testParams (0x37 :: (frameE1.drop 1).take 55)
theorem witness_BadLengthsAreDiscarded :
    hdrOffset machineF4.par + 15 ≤ (byteAt machineF4 inBase).toNat + 1 ∧
    rsDecode machineF4.par machineF4.draws 2 (bytesAt machineF4 (inBase + hdrOffset machineF4.par) 15) =
      .ok (headerBlock testParams 0x1F0 (List.replicate 13 0) 0) 0 ∧
    0#10 = lengthOf (descrambleBytes machineF4.seed ((headerBlock testParams 0x1F0 (List.replicate 13 0) 0).take 13)) := by
  decide +kernel
theorem witness_BadLengthsAreDiscarded_short :
    hdrOffset machineF5.par + 15 ≤ (byteAt machineF5 inBase).toNat + 1 ∧
    rsDecode machineF5.par machineF5.draws 2 (bytesAt machineF5 (inBase + hdrOffset machineF5.par) 15) =
      .ok headerE1 0 ∧
    20#10 = lengthOf (descrambleBytes machineF5.seed (headerE1.take 13)) ∧ 20#10 ≠ 0 ∧
    (byteAt machineF5 inBase).toNat + 1 < hdrOffset machineF5.par + 15 + (20#10).toNat + 20 := by decide +kernel
/-- V-F7's kind, with a payload of one byte: nine of the 17 bytes of its block are wrong. -/
def machineF7 : State :=
  withIn testParams ([0x25, 0x00] ++ headerBlock testParams 0x1F0 (List.replicate 13 0) 1 ++ damagedBlock1 ++ [0, 0, 0, 0])
theorem machineF7_block :
    bytesAt machineF7 (inBase + hdrOffset machineF7.par + 15) ((1#10).toNat + 16) = damagedBlock1 := by decide +kernel
theorem witness_UncorrectablePayloadIsDiscarded :
    hdrOffset machineF7.par + 15 + (1#10).toNat + 20 ≤ (byteAt machineF7 inBase).toNat + 1 ∧
    rsDecode machineF7.par machineF7.draws 2 (bytesAt machineF7 (inBase + hdrOffset machineF7.par) 15) =
      .ok (headerBlock testParams 0x1F0 (List.replicate 13 0) 1) 0 ∧
    1#10 = lengthOf (descrambleBytes machineF7.seed ((headerBlock testParams 0x1F0 (List.replicate 13 0) 1).take 13)) ∧
    1#10 ≠ 0 ∧
    rsDecode machineF7.par machineF7.draws 16
      (bytesAt machineF7 (inBase + hdrOffset machineF7.par + 15) ((1#10).toNat + 16)) = .fail := by
  refine ⟨by decide +kernel, by decide +kernel, by decide +kernel, by decide, ?_⟩
  rw [machineF7_block, show machineF7.par = testParams from rfl, show machineF7.draws = 0 from rfl, damagedBlock1_fails]
theorem witness_DecodedPayloadIsAssembled :
    hdrOffset machineE1.par + 15 + (20#10).toNat + 20 ≤ (byteAt machineE1 inBase).toNat + 1 ∧
    rsDecode machineE1.par machineE1.draws 2 (bytesAt machineE1 (inBase + hdrOffset machineE1.par) 15) =
      .ok headerE1 0 ∧
    20#10 = lengthOf (descrambleBytes machineE1.seed (headerE1.take 13)) ∧ 20#10 ≠ 0 ∧
    rsDecode machineE1.par machineE1.draws 16
      (bytesAt machineE1 (inBase + hdrOffset machineE1.par + 15) ((20#10).toNat + 16)) = .ok blockE1 0 ∧
    payloadE1 = descrambleBytes machineE1.seed (blockE1.take (20#10).toNat) ∧
    frameE1.drop 53 = bytesAt machineE1 (inBase + hdrOffset machineE1.par + 15 + (20#10).toNat + 16) 4 ∧
    0xDCE3#16 = hammingFcs machineE1.par (frameE1.drop 53) ∧
    0xDCE3#16 = crc16X25 (machineE1.par.ax25Prefix.toList ++ payloadE1) := by decide +kernel
theorem witness_DecodeFrameOutcomes : ∃ t, exec .decodeFrame machineE1 = .next t := ⟨_, rfl⟩
/-- V-F9: three bytes more, not counted by LEN, differ. -/
theorem witness_DecodeFrameIgnoresBytesBeyondLen :
    ∀ a, ¬ (inBase + (byteAt machineE1 inBase).toNat < a ∧ a < outBase) →
      Memory.get? (Memory.putList machineE1.mem 0x139 [0xAA, 0xBB, 0xCC]) a = Memory.get? machineE1.mem a := by
  have h : (byteAt machineE1 inBase).toNat = 0x38 := by decide +kernel
  intro a ha
  rw [h] at ha
  exact Memory.get?_putList_outside _ _ _ (by simp [inBase, outBase] at ha ⊢; omega)
theorem witness_BuiltFrameDecodesToItsPayload :
    machineE1.par.hammingDecode = hammingDefault ∧ (List.replicate 13 (0#8)).length = 13 ∧ 1 ≤ payloadE1.length ∧
    hdrOffset machineE1.par + 15 + payloadE1.length + 20 ≤ 256 ∧
    ∀ i, i < frameE1.length → Memory.get? machineE1.mem (inBase + i) = frameE1[i]? := by decide +kernel
/-- V-F10: one wrong byte in the header block, eight in the payload block. -/
def headerF10 : List Byte := headerE1.mapIdx fun i b => if i = 3 then b ^^^ 0x77 else b
def blockF10 : List Byte := blockE1.mapIdx fun i b => if i ∈ [0, 2, 4, 6, 8, 10, 12, 14] then b ^^^ 0x33 else b
def frameF10 : List Byte :=
  frameOf testParams 0 headerF10 blockF10 (encodedFcs (crc16X25 (prefixed testParams payloadE1)))
theorem witness_DamagedFrameDecodesToItsPayload :
    rsFieldOk testParams = true ∧ testParams.hammingDecode = hammingDefault ∧ headerF10.length = 15 ∧
    rsDist headerF10 (headerBlock testParams 0x1F0 (List.replicate 13 0) payloadE1.length) = 1 ∧
    blockF10.length = payloadE1.length + 16 ∧ rsDist blockF10 (payloadBlock testParams 0x1F0 payloadE1) = 8 ∧
    ∀ i, i < frameF10.length → Memory.get? (withIn testParams frameF10).mem (inBase + i) = frameF10[i]? := by
  decide +kernel

/-! ### Invariants -/

/-- A busy machine that meets the invariant, with a legal input to serve. -/
theorem witness_StepKeepsTheInvariant :
    busyMachine.Inv ∧ (∃ t, step busyMachine = .next t) ∧ ∀ x ∈ busyMachine.inputs, x.inWindow busyMachine.par = true := by
  exact ⟨busyMachine_inv, ⟨_, rfl⟩, by decide +kernel⟩
theorem witness_InvariantStatesNeverStop :
    busyMachine.Inv ∧ ∀ x ∈ busyMachine.inputs, x.inWindow busyMachine.par = true :=
  ⟨witness_StepKeepsTheInvariant.1, witness_StepKeepsTheInvariant.2.2⟩

end Sys2Proof.Tests
end

section
/-! PROOFS. The invariant is kept by every step: host accesses first, then the commands of the engine. -/

namespace Sys2Proof.Machine

open Sys2Proof.Config

/-! ### What the decoder answers (R102 to R104) -/

theorem decodeCounted_ok {w : Word} {i j : Instr} (h : decodeCounted w i = .ok j) : j = i := by
  simp only [decodeCounted] at h
  split at h <;> cases h
  rfl

theorem decodeBare_ok {w : Word} {i j : Instr} (h : decodeBare w i = .ok j) : j = i := by
  simp only [decodeBare] at h
  split at h
  · cases h
  · split at h <;> cases h
    rfl

theorem decodePay_wf {w : Word} {i : Instr} (h : decodePay w = .ok i) : i.wf = true := by
  simp only [decodePay] at h
  split at h
  · cases h
  · split at h <;> cases h
    assumption

/-- The decoder answers only well-formed commands (R104). -/
theorem wf_of_decode {w : Word} {i : Instr} (h : decode w = .ok i) : i.wf = true := by
  simp only [decode] at h
  split at h
  · cases h
  · split at h
    case h_1 => exact decodeBare_ok h ▸ rfl
    case h_2 => exact decodeBare_ok h ▸ rfl
    case h_3 => exact decodePay_wf h
    case h_4 => exact decodeCounted_ok h ▸ rfl
    case h_5 => exact decodeCounted_ok h ▸ rfl
    case h_6 => exact decodeBare_ok h ▸ rfl
    case h_7 => exact decodeBare_ok h ▸ rfl
    case h_8 => cases h; rfl
    case h_9 => cases h

/-! ### The reset and the bookkeeping of the host -/

/-- The reset state meets the invariant, whatever the parameters (R290, R292). -/
theorem resetWith_inv (par : Params) : (State.resetWith par).Inv := by
  constructor <;> simp [State.resetWith, busy, Memory.wf]

theorem resetBlock_inv (s : State) : (resetBlock s).Inv := { resetWith_inv s.par with }

theorem respond_inv {s : State} (h : s.Inv) (r : Response) : (respond r s).Inv := { h with }

/-- The inputs to come are outside the block. -/
theorem inputs_inv {s : State} (h : s.Inv) (rest : List Input) : State.Inv { s with inputs := rest } := { h with }

/-- An input served while BUSY counts the wait down and leaves the pending word. -/
theorem serving_inv {s : State} (h : s.Inv) {pend : Word} {k : Nat} (he : s.eng = .busy pend (k + 1))
    (rest : List Input) : State.Inv { s with inputs := rest, eng := .busy pend k } :=
  { h with
    pendIsCmd := fun _ _ hp => by cases hp; exact h.pendIsCmd _ _ he
    pendLegal := fun _ _ hp => by cases hp; exact h.pendLegal _ _ he
    busyFlags := fun _ => h.busyFlags (busy_eq_true.mpr ⟨_, _, he⟩) }

/-! ### Host writes -/

theorem markHazard_inv {s : State} (h : s.Inv) : (markHazard s).Inv := { h with }

theorem writeSeed_inv {s : State} (h : s.Inv) (w : Word) : (writeSeed w s).Inv := { h with }

theorem writeInWord_inv {s : State} (h : s.Inv) {off : Nat} (w : Word) (hlo : inBase ≤ off)
    (hhi : off + 4 ≤ bufferEnd) : (writeInWord off w s).Inv :=
  { h with memCanonical := Memory.wf_putList h.memCanonical _ hlo hhi }

/-- Acceptance clears the flags that the invariant wants clear while BUSY (R35). -/
theorem acceptCommand_inv {s : State} (h : s.Inv) {w : Word} {i : Instr} (hd : decode w = .ok i) :
    (acceptCommand w s).Inv :=
  { h with
    pendIsCmd := fun _ _ hp => by cases hp; rfl
    pendLegal := fun _ _ hp => by cases hp; exact ⟨i, hd⟩
    busyFlags := fun _ => ⟨rfl, rfl, rfl, rfl, rfl⟩
    errorReason := by simp
    payloadValid := rfl
    recordFields := fun hr => by simp at hr }

/-- A rejection happens only while IDLE, so no pending word is at stake (R261). -/
theorem rejectCommand_inv {s : State} (h : s.Inv) (he : s.eng = .idle) (w : Word) : (rejectCommand w s).Inv :=
  { h with
    pendIsCmd := fun _ _ hp => by simp [he] at hp
    pendLegal := fun _ _ hp => by simp [he] at hp
    busyFlags := fun hb => by simp [busy, he] at hb
    errorReason := by simp }

theorem registerWrite_inv {s : State} (h : s.Inv) (he : s.eng = .idle) (off : Nat) (w : Word) :
    (registerWrite off w s).Inv := by
  rcases registerWrite_cases off w s with ⟨-, ⟨i, hd⟩, e⟩ | ⟨-, -, e⟩ | ⟨-, e⟩ | ⟨hlo, hhi, e⟩ | ⟨-, -, -, e⟩ <;> rw [e]
  · exact acceptCommand_inv h hd
  · exact rejectCommand_inv h he w
  · exact writeSeed_inv h w
  · exact writeInWord_inv h w hlo (by simp only [outBase, bufferEnd] at hhi ⊢; omega)
  · exact h

theorem hostWrite_inv {s : State} (h : s.Inv) (off bits : Nat) (w : Word) : (hostWrite off bits w s).Inv := by
  rcases hostWrite_cases off bits w s with ⟨-, e⟩ | ⟨-, -, -, e⟩ | ⟨-, -, hidle, e⟩ <;> rw [e]
  · exact respond_inv h _
  · exact respond_inv (markHazard_inv h) _
  · exact respond_inv (registerWrite_inv h (busy_eq_false.mp hidle) off w) _

theorem serveInput_inv {s t : State} (h : s.Inv) {i : Input} (hs : serveInput i s = .next t) : t.Inv := by
  rcases serveInput_cases hs with ⟨-, rfl⟩ | ⟨_, _, -, -, r, rfl⟩ | ⟨off, bits, w, -, -, rfl⟩
  · exact resetBlock_inv s
  · exact respond_inv h r
  · exact hostWrite_inv h off bits w

/-! ### A command in flight -/

/-- The counts a correction register can hold after a stage that corrects at most `t` bytes (R42, R43). -/
def Corr.Bounded (t : Nat) (c : Corr) : Prop := c.count.toNat ≤ t ∧ (c.state ≠ .decoded → c.count = 0)

theorem Corr.within.bounded {t : Nat} {c : Corr} (h : c.within t) : c.Bounded t := by
  rcases h with rfl | rfl | ⟨k, hk, rfl⟩
  · simp [Bounded, notAttempted]
  · simp [Bounded, corrFailed]
  · exact ⟨Nat.le_trans (Nat.mod_le _ _) hk, fun hs => absurd rfl hs⟩

/-- What holds between a command's writes: the flags cleared at acceptance are clear but for REASON, and the results are
within their bounds. Every write of a command but those of DECODE_FRAME's last stage keeps it. -/
structure State.InFlight (s : State) : Prop where
  memCanonical : Memory.wf s.mem
  cmdErr : s.status.cmdErr = false
  reason : s.status.reason ≠ .illegalCommand
  record : s.status.record = false
  payloadValid : s.status.payloadValid = false
  headerCount : s.hdrCorr.Bounded 1
  payloadCorrections : s.payCorr.Bounded 8
  lengthValid : s.payloadCount.valid = false → s.payloadCount.length = 0
  outLenBound : s.outLen.toNat ≤ 256

theorem State.Inv.inFlight {s : State} (h : s.Inv) (hb : busy s = true) : s.InFlight := by
  obtain ⟨-, hcmdErr, hreason, hrecord, hpayloadValid⟩ := h.busyFlags hb
  exact { h with cmdErr := hcmdErr, reason := by simp [hreason], record := hrecord, payloadValid := hpayloadValid }

/-- Completion turns the bounds into the invariant: the engine is IDLE and there is no record. -/
theorem complete_inv {s : State} (h : s.InFlight) : (complete s).Inv :=
  { h with
    pendIsCmd := fun _ _ hp => by cases hp
    pendLegal := fun _ _ hp => by cases hp
    busyFlags := fun hb => by cases hb
    errorReason := by simp [h.cmdErr, h.reason]
    payloadValid := by simp [h.record, h.payloadValid]
    recordFields := fun hr => by simp [h.record] at hr }

theorem setReason_inFlight {s : State} (h : s.InFlight) {r : Reason} (hr : r ≠ .illegalCommand) :
    (setReason r s).InFlight := { h with reason := hr }

theorem setFcs_inFlight {s : State} (h : s.InFlight) (f : Fcs) : State.InFlight { s with fcs := f } := { h with }

theorem setLength_inFlight {s : State} (h : s.InFlight) (n : BitVec 10) : (setLength n s).InFlight :=
  { h with lengthValid := fun hv => by cases hv }

theorem writeOut_inFlight {s : State} (h : s.InFlight) {bs : List Byte} (hbs : bs.length ≤ 256) :
    (writeOut bs s).InFlight :=
  { h with
    memCanonical := Memory.wf_putList h.memCanonical bs (by decide) (by simp only [outBase, bufferEnd]; omega)
    outLenBound := Nat.le_trans (Nat.mod_le _ _) hbs }

theorem validateResult_inFlight {s : State} (h : s.InFlight) (ok : Bool) : (validateResult ok s).InFlight :=
  setReason_inFlight (s := { s with status := { s.status with scramblerOk := ok } }) { h with } (by cases ok <;> simp)

theorem crcResult_inFlight {s : State} (h : s.InFlight) (computed : Half) : (crcResult computed s).InFlight :=
  setReason_inFlight
    (s := { s with
      fcs := { s.fcs with computed := computed }
      status := { s.status with crcOk := computed == s.fcs.rx } })
    { h with } (by split <;> simp)

/-- RS_DECODE_HDR corrects at most one byte of a 15-byte block (R145). -/
theorem headerFecResult_inFlight {s : State} (h : s.InFlight) {b : List Byte} (hb : b.length = 15) (draw : Nat) :
    (headerFecResult (rsDecode s.par draw 2 b) s).InFlight := by
  cases hd : rsDecode s.par draw 2 b with
  | fail =>
    exact { h with reason := by simp [headerFecResult], headerCount := Corr.within.bounded (.inr (.inl rfl)),
                   outLenBound := Nat.zero_le _ }
  | ok c k =>
    obtain ⟨hlen, hk⟩ := rsDecode_ok (by omega) (by omega) hd
    have hw : (writeOut c s).InFlight := writeOut_inFlight h (by omega)
    exact setReason_inFlight (s := { writeOut c s with hdrCorr := corrDecoded k })
      { hw with headerCount := Corr.within.bounded (.inr (.inr ⟨k, hk, rfl⟩)) } (by simp)

/-- RS_DECODE_PAY corrects at most eight bytes of a block that fits OUT (R146). -/
theorem payloadFecResult_inFlight {s : State} (h : s.InFlight) {b : List Byte} (hlo : 16 ≤ b.length)
    (hhi : b.length ≤ 256) (draw : Nat) : (payloadFecResult (rsDecode s.par draw 16 b) s).InFlight := by
  cases hd : rsDecode s.par draw 16 b with
  | fail =>
    exact { h with reason := by simp [payloadFecResult], payloadCorrections := Corr.within.bounded (.inr (.inl rfl)),
                   outLenBound := Nat.zero_le _ }
  | ok c k =>
    obtain ⟨hlen, hk⟩ := rsDecode_ok (by omega) hlo hd
    have hw : (writeOut c s).InFlight := writeOut_inFlight h (by omega)
    exact setReason_inFlight (s := { writeOut c s with payCorr := corrDecoded k })
      { hw with payloadCorrections := Corr.within.bounded (.inr (.inr ⟨k, hk, rfl⟩)) } (by simp)

/-! ### DECODE_FRAME -/

/-- A discarded packet leaves no record and its results within bounds (R234). -/
theorem discardedFrame_inv {s : State} (h : s.InFlight) {r : Reason} (hr : r ≠ .illegalCommand) (scramblerOk : Bool)
    {hdr pay : Corr} {cnt : PayloadCount} (hhdr : hdr.within 1) (hpay : pay.within 8)
    (hcnt : cnt.valid = false → cnt.length = 0) : (discardedFrame s r scramblerOk hdr pay cnt).Inv :=
  complete_inv
    (s := { discardedFrame s r scramblerOk hdr pay cnt with draws := s.draws })
    { h with
      reason := hr, record := rfl, payloadValid := rfl, headerCount := hhdr.bounded, payloadCorrections := hpay.bounded
      lengthValid := hcnt, outLenBound := Nat.zero_le _ }

/-- The assembled record carries valid fields, and PAYLOAD_VALID is the CRC comparison (R232). -/
theorem assemble_inv {s : State} (h : s.InFlight) {k m : Nat} (hk : k ≤ 1) (hm : m ≤ 8) (n : BitVec 10)
    (rx computed : Half) {record : List Byte} (hlen : record.length = 35 + n.toNat) (hfit : record.length ≤ 256) :
    (complete (assemble record (frameCrc rx computed (beforePayload s k m n)))).Inv where
  memCanonical := Memory.wf_putList h.memCanonical record (by decide) (by simp only [outBase, bufferEnd]; omega)
  pendIsCmd := fun _ _ hp => by cases hp
  pendLegal := fun _ _ hp => by cases hp
  busyFlags := fun hb => by cases hb
  errorReason := by
    have hcmdErr := h.cmdErr
    cases hc : rx == computed <;> simp [assemble, beforePayload, hcmdErr, hc]
  payloadValid := by simp [assemble]
  recordFields := fun _ =>
    ⟨rfl, rfl, rfl, rfl, by
      simp only [complete_outLen, assemble, writeOut_outLen, BitVec.toNat_ofNat, hlen]
      exact Nat.mod_eq_of_lt (by omega)⟩
  headerCount := Corr.within.bounded (.inr (.inr ⟨k, hk, rfl⟩))
  payloadCorrections := Corr.within.bounded (.inr (.inr ⟨m, hm, rfl⟩))
  lengthValid := fun hv => by cases hv
  outLenBound := Nat.le_trans (Nat.mod_le _ _) hfit

theorem decodeFrame_inv {s t : State} (h : s.InFlight) (hx : exec .decodeFrame s = .next t) : t.Inv := by
  rcases decodeFrame_cases s with
    ⟨r, so, hdr, pay, cnt, hr, hhdr, hpay, hcnt, e⟩ | ⟨hc, k, pc, m, n, hhc, hk, hpc, hm, hfit, e⟩ <;>
    rw [e] at hx <;> cases hx
  · exact discardedFrame_inv h (by rintro rfl; simp at hr) so hhdr hpay hcnt
  · have hpar : (beforePayload s k m n).par = s.par := rfl
    have hbyte := (byteAt s inBase).isLt
    have hbase : 16 ≤ payloadBase s.par := Nat.add_le_add_right (hdrOffset_pos s.par) 15
    obtain ⟨record, hlen, e⟩ := framePayload_record (f := rawFrame s) (s := beforePayload s k m n) hhc hpc
      (by simpa [hpar] using hfit)
    rw [e]
    exact assemble_inv h hk hm n _ _ hlen (by omega)

/-! ### Every command, every step -/

/-- Every well-formed command turns the bounds of a command in flight into the invariant. -/
theorem exec_inv {s t : State} (h : s.InFlight) {i : Instr} (hwf : i.wf = true) (hx : exec i s = .next t) : t.Inv := by
  cases i with
  | decodeFrame => exact decodeFrame_inv h hx
  | rsDecodeHdr =>
    cases hx
    exact complete_inv (headerFecResult_inFlight h (by simp) _)
  | rsDecodePay n =>
    cases hx
    have hn : 1 ≤ n.toNat ∧ n.toNat ≤ 239 := of_decide_eq_true hwf
    exact complete_inv (payloadFecResult_inFlight h (by simp) (by simp; omega) _)
  | descramble n =>
    cases hx
    exact complete_inv (setReason_inFlight (writeOut_inFlight h (by simp; omega)) (by simp))
  | validate n =>
    cases hx
    exact complete_inv (validateResult_inFlight h _)
  | lengthDecode =>
    cases hx
    exact complete_inv (setReason_inFlight (setLength_inFlight h _) (by split <;> simp))
  | hammingCrc =>
    cases hx
    exact complete_inv (setReason_inFlight (setFcs_inFlight h _) (by simp))
  | crcCheck np n =>
    cases hx
    exact complete_inv (crcResult_inFlight h _)

/-- Every step keeps the invariant: the engine's by `exec_inv`, the host's by `serveInput_inv`. -/
theorem step_inv {s t : State} (h : s.Inv) (hs : step s = .next t) : t.Inv := by
  rcases step_cases hs with
    ⟨pend, k, i, he, -, hd, hx⟩ | ⟨pend, k, i, rest, he, -, hx⟩ | ⟨i, rest, -, -, hx⟩ | ⟨-, -, rfl⟩
  · exact exec_inv (h.inFlight (busy_eq_true.mpr ⟨pend, k, he⟩)) (wf_of_decode hd) hx
  · exact serveInput_inv (serving_inv h he rest) hx
  · exact serveInput_inv (inputs_inv h rest) hx
  · exact h

/-- Settles O59: the invariant is inductive as it stands; a command runs from `State.InFlight`. -/
theorem stepKeepsTheInvariant : Obligations.StepKeepsTheInvariant := fun _ _ => step_inv

end Sys2Proof.Machine
end

section
/-! PROOFS. What the host sees on the bus: host writes by offset (10_state.md rules R33, R41 and R47), the reserved space,
and the register words while IDLE. -/

namespace Sys2Proof.Machine

open Sys2Proof.Config

/-! ### Aligned host writes -/

theorem hostWrite_aligned_busy {s : State} (hb : busy s = true) {off : Nat} (ha : off % 4 = 0) (w : Word) :
    hostWrite off 32 w s = respond .written (markHazard s) := by
  simp [hostWrite, busError_eq_false.mpr ⟨rfl, ha⟩, hb]

theorem hostWrite_aligned_idle {s : State} (he : s.eng = .idle) {off : Nat} (ha : off % 4 = 0) (w : Word) :
    hostWrite off 32 w s = respond .written (registerWrite off w s) := by
  simp [hostWrite, busError_eq_false.mpr ⟨rfl, ha⟩, busy_eq_false.mpr he]

theorem registerWrite_cmd (w : Word) (s : State) : registerWrite 0x000 w s = issueCommand w s := rfl

theorem registerWrite_seed (w : Word) (s : State) : registerWrite 0x008 w s = writeSeed w s := rfl

/-- Every offset but those of CMD, SEED and IN ignores a write (R32, R47). -/
theorem registerWrite_ignored {off : Nat} (hcmd : off ≠ 0x000) (hseed : off ≠ 0x008)
    (hin : ¬ (inBase ≤ off ∧ off < outBase)) (w : Word) (s : State) : registerWrite off w s = s := by
  rw [registerWrite, if_neg hcmd, if_neg hseed, if_neg hin]

/-- SEED takes bits 8:0 of the word alone (R41). -/
theorem writeSeed_low (w : Word) (s : State) : writeSeed (w &&& 0x1FF) s = writeSeed w s := by
  have hlow : (w &&& 0x1FF).setWidth 9 = w.setWidth 9 := by
    have hmask : w.toNat &&& (0x1FF : Word).toNat = w.toNat % 2 ^ 9 := Nat.and_two_pow_sub_one_eq_mod w.toNat 9
    refine BitVec.eq_of_toNat_eq ?_
    rw [BitVec.toNat_setWidth, BitVec.toNat_setWidth, BitVec.toNat_and, hmask, Nat.mod_mod]
  rw [writeSeed, writeSeed, hlow]

/-- An IDLE block serves its next input (R81). -/
theorem step_idle_input {s : State} {i : Input} {rest : List Input} (he : s.eng = .idle) (hin : s.inputs = i :: rest) :
    step s = serveInput i { s with inputs := rest } := by
  have ht : turn s = .host i { s with inputs := rest } := by simp [turn, he, hin]
  rw [step, ht]

/-- The bus address BASE is offset 0, CMD (R70). -/
theorem serveInput_write_base (s : State) (bits : Nat) (w : Word) :
    serveInput (.write s.par.base bits w) s = .next (hostWrite 0x000 bits w s) := by
  simp only [serveInput, windowOffset_base]

/-- Settles O10: the write is served, is neither a bus error nor a hazard, and its word is legal. -/
theorem legalCommandWriteIsAccepted : Obligations.LegalCommandWriteIsAccepted := by
  intro s w i rest he hd hin
  have hidle : State.eng { s with inputs := rest } = .idle := he
  rw [step_idle_input he hin, serveInput_write_base { s with inputs := rest }, hostWrite_aligned_idle hidle rfl, registerWrite_cmd, issueCommand_legal hd]
  exact ⟨_, _, rfl⟩

/-- Settles O16: the three cases of a SEED access. -/
theorem seedHoldsNineBits : Obligations.SeedHoldsNineBits := by
  refine fun s w => ⟨fun he => ⟨.written, ?_⟩, fun hb => ⟨.written, hostWrite_aligned_busy hb rfl w⟩, ?_⟩
  · have hseed : w.setWidth 9 = BitVec.ofNat 9 (w.toNat % 512) := BitVec.eq_of_toNat_eq (by simp)
    rw [hostWrite_aligned_idle he rfl, registerWrite_seed, writeSeed, hseed]
    rfl
  · rw [registerRead_seed, toNat_seedWord]

/-- Settles O17: such a write reaches no register and no buffer byte. -/
theorem readOnlyAndReservedOffsetsIgnoreWrites : Obligations.ReadOnlyAndReservedOffsetsIgnoreWrites := by
  intro s off w he _ ha hcmd hseed hin
  rw [hostWrite_aligned_idle he ha, registerWrite_ignored hcmd hseed hin]
  exact ⟨_, rfl⟩

/-! ### The engine's step -/

/-- A BUSY engine whose turn it is runs the command of its pending word (R49, R299). -/
theorem step_engine {s : State} {pend : Word} {k : Nat} {i : Instr} (he : s.eng = .busy pend k)
    (hturn : k = 0 ∨ s.inputs = []) (hd : decode pend = .ok i) : step s = exec i s := by
  have ht : turn s = .engine pend := by
    rcases hturn with rfl | hin
    · simp [turn, he]
    · cases k <;> simp [turn, he, hin]
  rw [step, ht]
  simp only [runPending, hd]

/-- A legal word placed by `withFetchWord` is accepted, with no wait. -/
theorem withFetchWord_legal {w : Word} {i : Instr} (hd : decode w = .ok i) (s : State) :
    s.withFetchWord 32 w.toNat = { acceptCommand w s with eng := .busy w 0 } := by
  have hw : BitVec.ofNat 32 (w.toNat % 2 ^ 32) = w := by
    rw [Nat.mod_eq_of_lt w.isLt, BitVec.ofNat_toNat, BitVec.setWidth_eq]
  rw [State.withFetchWord, hw, issueCommand_legal hd, completeNext, acceptCommand_eng]

/-- Settles O7, by `step_engine`; the placed word is the pending word of an engine whose wait is over. -/
theorem stepRunsThePendingCommand : Obligations.StepRunsThePendingCommand := by
  refine ⟨fun s pend k i he hturn hd => step_engine he hturn hd, fun s w i hd => ?_⟩
  rw [withFetchWord_legal hd]
  exact step_engine (k := 0) rfl (.inl rfl) hd

/-- Every command ends in `complete` (R35). -/
theorem exec_completes (i : Instr) (s : State) : ∃ u, exec i s = .next (complete u) := by
  cases i <;> exact ⟨_, rfl⟩

/-- Settles O24, by `exec_completes`. -/
theorem everyCommandCompletes : Obligations.EveryCommandCompletes := by
  intro i s
  obtain ⟨u, hu⟩ := exec_completes i s
  exact ⟨complete u, hu, rfl, rfl⟩

/-! ### The register words while IDLE -/

theorem registerRead_hdrCorr_idle {s : State} (he : s.eng = .idle) : registerRead s 0x00C = corrWord s.hdrCorr := by
  simp [registerRead_hdrCorr, busy_eq_false.mpr he]

theorem registerRead_payCorr_idle {s : State} (he : s.eng = .idle) : registerRead s 0x010 = corrWord s.payCorr := by
  simp [registerRead_payCorr, busy_eq_false.mpr he]

theorem registerRead_payloadCount_idle {s : State} (he : s.eng = .idle) :
    registerRead s 0x014 = payloadCountWord s.payloadCount := by
  simp [registerRead_payloadCount, busy_eq_false.mpr he]

theorem registerRead_fcs_idle {s : State} (he : s.eng = .idle) : registerRead s 0x018 = fcsWord s.fcs := by
  simp [registerRead_fcs, busy_eq_false.mpr he]

theorem registerRead_outLen_idle {s : State} (he : s.eng = .idle) : registerRead s 0x01C = outLenWord s := by
  simp [registerRead_outLen, busy_eq_false.mpr he]

theorem registerRead_status_idle {s : State} (he : s.eng = .idle) : registerRead s 0x004 = statusWord s := by
  simp [registerRead_status, busy_eq_false.mpr he]

theorem toNat_append_eq_add {m n : Nat} (x : BitVec m) (y : BitVec n) :
    (x ++ y).toNat = 2 ^ n * x.toNat + y.toNat := by
  rw [BitVec.toNat_append, ← Nat.shiftLeft_add_eq_or_of_lt y.isLt, Nat.shiftLeft_eq, Nat.mul_comm]

/-- STATUS as a number (R34): one power of two a flag, the REASON code at bits 15:8. -/
theorem toNat_statusWord (s : State) :
    (statusWord s).toNat =
      s.status.done.toNat + 2 * (busy s).toNat + 4 * s.status.cmdErr.toNat + 8 * s.status.hazard.toNat +
      256 * (reasonCode s.status.reason).toNat + 2 ^ 16 * s.status.scramblerOk.toNat + 2 ^ 17 * s.status.crcOk.toNat +
      2 ^ 18 * s.status.record.toNat + 2 ^ 19 * s.status.payloadValid.toNat := by
  simp only [statusWord, toNat_append_eq_add, BitVec.toNat_ofBool, BitVec.toNat_ofNat]
  omega

/-- The STATE codes of R42. -/
theorem corrStateCode_of_mem {c : CorrState} {n : Nat}
    (h : (c, n) ∈ [(CorrState.notAttempted, 0), (.decoded, 1), (.failed, 2)]) : (corrStateCode c).toNat = n := by
  simp only [List.mem_cons, Prod.mk.injEq, List.not_mem_nil, or_false] at h
  rcases h with ⟨rfl, rfl⟩ | ⟨rfl, rfl⟩ | ⟨rfl, rfl⟩ <;> rfl

/-- Settles O20: each register's word, as a number. -/
theorem registersReadWhileIdle : Obligations.RegistersReadWhileIdle := by
  intro s he
  refine ⟨registerRead_cmd s, by simp, fun c n hcn => ?_, ?_, ?_, ?_⟩
  · have hcode := corrStateCode_of_mem hcn
    rw [registerRead_hdrCorr_idle he, registerRead_payCorr_idle he, toNat_corrWord, toNat_corrWord]
    exact ⟨fun hc => by rw [hc, hcode], fun hc => by rw [hc, hcode]⟩
  · rw [registerRead_payloadCount_idle he, toNat_payloadCountWord]
  · rw [registerRead_fcs_idle he, toNat_fcsWord]
  · rw [registerRead_outLen_idle he, toNat_outLenWord]

/-- The REASON codes of R264. -/
theorem reasonCode_of_mem {r : Reason} {code : Nat}
    (h : (r, code) ∈ [(Reason.none, 0x00), (.badHeader, 0x01), (.scramblerMismatch, 0x02), (.invalidLength, 0x03),
      (.insufficientBytes, 0x04), (.truncatedHeader, 0x05), (.payloadFecFail, 0x06), (.crcMismatch, 0x07),
      (.illegalCommand, 0x0F)]) : (reasonCode r).toNat = code := by
  cases r <;> simp_all [reasonCode]

/-- Settles O22: the STATUS word as a number, its BUSY bit 0. -/
theorem statusWordShowsTheFlags : Obligations.StatusWordShowsTheFlags := by
  intro s r code he hr hcode
  rw [registerRead_status_idle he, toNat_statusWord, hr, reasonCode_of_mem hcode, busy_eq_false.mpr he]
  simp

/-! ### Reserved bits (R47)

A register word is an append of its fields and of zeros for the reserved bits. `BitVec.getLsbD_append` finds the part in
which bit `i` falls; for a reserved `i` that part is one of the zeros, which is left to linear arithmetic. -/

theorem statusWord_reserved (s : State) {i : Nat} (hi : (4 ≤ i ∧ i ≤ 7) ∨ 20 ≤ i) :
    (statusWord s).getLsbD i = false := by
  simp only [statusWord, BitVec.getLsbD_append]
  grind

theorem busyStatusWord_reserved (s : State) (v : Word) {i : Nat} (hi : (4 ≤ i ∧ i ≤ 7) ∨ 20 ≤ i) :
    (busyStatusWord s v).getLsbD i = false := by
  simp only [busyStatusWord, BitVec.getLsbD_append]
  grind

theorem seedWord_reserved (s : State) {i : Nat} (hi : 9 ≤ i) : (seedWord s).getLsbD i = false := by
  simp [seedWord, BitVec.getLsbD_of_ge _ _ hi]

theorem corrWord_reserved (c : Corr) {i : Nat} (hi : 10 ≤ i) : (corrWord c).getLsbD i = false := by
  simp only [corrWord, BitVec.getLsbD_append]
  grind

theorem payloadCountWord_reserved (c : PayloadCount) {i : Nat} (hi : (10 ≤ i ∧ i ≤ 15) ∨ 17 ≤ i) :
    (payloadCountWord c).getLsbD i = false := by
  simp only [payloadCountWord, BitVec.getLsbD_append]
  grind

theorem outLenWord_reserved (s : State) {i : Nat} (hi : 9 ≤ i) : (outLenWord s).getLsbD i = false := by
  simp [outLenWord, BitVec.getLsbD_of_ge _ _ hi]

/-- STATUS's reserved bits read 0 in both engine states (R34). -/
theorem registerRead_status_reserved (s : State) {i : Nat} (hi : (4 ≤ i ∧ i ≤ 7) ∨ 20 ≤ i) :
    (registerRead s 0x004).getLsbD i = false := by
  rw [registerRead_status]
  split
  · exact busyStatusWord_reserved s _ hi
  · exact statusWord_reserved s hi

/-- Only the low nine bits of the word of a SEED write count, in both engine states. -/
theorem hostWrite_seed_low (w : Word) (s : State) : hostWrite 0x008 32 w s = hostWrite 0x008 32 (w &&& 0x1FF) s := by
  cases hb : busy s with
  | true => rw [hostWrite_aligned_busy hb rfl, hostWrite_aligned_busy hb rfl]
  | false =>
    have he := busy_eq_false.mp hb
    rw [hostWrite_aligned_idle he rfl, hostWrite_aligned_idle he rfl, registerWrite_seed, registerWrite_seed,
      writeSeed_low]

theorem registerRead_reserved (s : State) {off : Nat}
    (h : (0x020 ≤ off ∧ off < 0x100) ∨ (0x300 ≤ off ∧ off < 0x1000)) : registerRead s off = 0 := by
  rw [registerRead_high s (by omega), if_neg (by simp only [inBase, outBase]; omega),
    if_neg (by simp only [outBase, bufferEnd]; omega)]

theorem hostWrite_reserved (s : State) {off : Nat} (h : (0x020 ≤ off ∧ off < 0x100) ∨ (0x300 ≤ off ∧ off < 0x1000))
    (ha : off % 4 = 0) (w : Word) :
    hostWrite off 32 w s = respond .written (if busy s then markHazard s else s) := by
  cases hb : busy s with
  | true => exact hostWrite_aligned_busy hb ha w
  | false =>
    rw [hostWrite_aligned_idle (busy_eq_false.mp hb) ha,
      registerWrite_ignored (by omega) (by omega) (by simp only [inBase, outBase]; omega)]
    rfl

/-- Settles O18: reserved offsets first, then the reserved bits of each register. -/
theorem reservedSpaceReadsZero : Obligations.ReservedSpaceReadsZero := by
  refine ⟨fun s off h => ⟨registerRead_reserved s h, fun w ha => ⟨.written, hostWrite_reserved s h ha w⟩⟩,
    fun s => ⟨fun i hi => registerRead_status_reserved s hi, fun i hi => seedWord_reserved s hi,
      fun w => hostWrite_seed_low w s, fun he => ⟨fun i hi => ?_, fun i hi => ?_, fun i hi => ?_⟩⟩⟩
  · rw [registerRead_hdrCorr_idle he, registerRead_payCorr_idle he]
    exact ⟨corrWord_reserved _ hi, corrWord_reserved _ hi⟩
  · rw [registerRead_payloadCount_idle he]
    exact payloadCountWord_reserved _ hi
  · rw [registerRead_outLen_idle he]
    exact outLenWord_reserved s hi

end Sys2Proof.Machine
end

section
/-! PROOFS. The block's address space (20_memory.md): which accesses are the block's, what a read answers, the byte
order of buffer words, what a command can write, and what DECODE_FRAME reads of IN. -/

namespace Sys2Proof.Machine

open Sys2Proof.Config

/-! ### The window (R15, R70, R73) -/

theorem serveInput_read_window (s : State) {off : Nat} (h : off < 0x1000) (bits : Nat) :
    serveInput (.read (s.par.base + off) bits) s = .next (hostRead off bits s) := by
  simp only [serveInput, windowOffset_off s.par h]

theorem serveInput_write_window (s : State) {off : Nat} (h : off < 0x1000) (bits : Nat) (w : Word) :
    serveInput (.write (s.par.base + off) bits w) s = .next (hostWrite off bits w s) := by
  simp only [serveInput, windowOffset_off s.par h]

theorem serveInput_read_outside {s : State} {addr : Nat} (h : windowOffset s.par addr = none) (bits : Nat) :
    serveInput (.read addr bits) s = .fault (.outsideWindow addr) := by
  simp only [serveInput, h]

theorem serveInput_write_outside {s : State} {addr : Nat} (h : windowOffset s.par addr = none) (bits : Nat)
    (w : Word) : serveInput (.write addr bits w) s = .fault (.outsideWindow addr) := by
  simp only [serveInput, h]

/-- Settles O23: the window's bounds are those of `windowOffset`. -/
theorem windowIsFourKilobytesAtBase : Obligations.WindowIsFourKilobytesAtBase := by
  refine ⟨fun par off h => windowOffset_off par h, fun s off bits w h => ?_, fun s addr bits w h => ?_⟩
  · exact ⟨serveInput_read_window s h bits, serveInput_write_window s h bits w⟩
  · have hnone := windowOffset_eq_none.mpr h
    exact ⟨serveInput_read_outside hnone bits, serveInput_write_outside hnone bits w⟩

/-! ### One input a step (R81) -/

/-- While its wait lasts, a BUSY block serves its next input and counts the wait down. -/
theorem step_waiting_input {s : State} {pend : Word} {k : Nat} {i : Input} {rest : List Input}
    (he : s.eng = .busy pend (k + 1)) (hin : s.inputs = i :: rest) :
    step s = serveInput i { s with inputs := rest, eng := .busy pend k } := by
  have ht : turn s = .host i { s with inputs := rest, eng := .busy pend k } := by simp [turn, he, hin]
  rw [step, ht]

theorem step_idle_quiet {s : State} (he : s.eng = .idle) (hin : s.inputs = []) : step s = .next s := by
  have ht : turn s = .quiet := by simp [turn, he, hin]
  rw [step, ht]

/-- Settles O8: the three turns in which the engine does not act. -/
theorem stepServesInputsInOrder : Obligations.StepServesInputsInOrder :=
  ⟨fun _ _ _ he hin => step_idle_input he hin, fun _ _ _ _ _ he hin => step_waiting_input he hin,
    fun _ he hin => step_idle_quiet he hin⟩

/-! ### What a read answers, and the error response (R75, R77, R262) -/

theorem busError_eq_true {off bits : Nat} : busError off bits = true ↔ bits ≠ 32 ∨ off % 4 ≠ 0 := by
  simp [busError]

/-- The answer of a host read. -/
def readResponse (off bits : Nat) (s : State) : Response :=
  if busError off bits then .readError (Config.freeWord s.draws) else .data (registerRead s off)

theorem readResponse_error {off bits : Nat} (h : bits ≠ 32 ∨ off % 4 ≠ 0) (s : State) :
    readResponse off bits s = .readError (Config.freeWord s.draws) := by
  rw [readResponse, if_pos (busError_eq_true.mpr h)]

theorem readResponse_aligned {off bits : Nat} (hbits : bits = 32) (ha : off % 4 = 0) (s : State) :
    readResponse off bits s = .data (registerRead s off) := by
  simp [readResponse, busError_eq_false.mpr ⟨hbits, ha⟩]

/-- A host read gives its answer and does nothing else. -/
theorem hostRead_eq_respond (off bits : Nat) (s : State) :
    hostRead off bits s = respond (readResponse off bits s) s := by
  rw [hostRead, readResponse]
  split <;> rfl

theorem hostWrite_error {off bits : Nat} (h : bits ≠ 32 ∨ off % 4 ≠ 0) (w : Word) (s : State) :
    hostWrite off bits w s = respond .writeError s := by
  rw [hostWrite, if_pos (busError_eq_true.mpr h)]

/-- The answer does not depend on the inputs to come. -/
theorem readResponse_inputs (off bits : Nat) (s : State) (rest : List Input) :
    readResponse off bits { s with inputs := rest } = readResponse off bits s := rfl

/-- The answer does not depend on how long the wait still is. -/
theorem readResponse_serving (off bits : Nat) {s : State} {pend : Word} {k : Nat} (he : s.eng = .busy pend (k + 1))
    (rest : List Input) :
    readResponse off bits { s with inputs := rest, eng := .busy pend k } = readResponse off bits s := by
  rw [readResponse, readResponse, registerRead_serving s off pend k rest he]

/-- Settles O13: the bus error is the first check of a read and of a write. -/
theorem busErrorChangesNothing : Obligations.BusErrorChangesNothing := by
  intro s off bits w h
  rw [hostRead_eq_respond, readResponse_error h, hostWrite_error h]
  exact ⟨rfl, rfl⟩

/-- Settles O19: a served read is `respond` of its `readResponse`, in both engine states. -/
theorem hostReadsHaveNoSideEffect : Obligations.HostReadsHaveNoSideEffect := by
  intro s off bits rest hoff hin
  refine ⟨readResponse off bits s, fun hbits ha => readResponse_aligned hbits ha s, fun he => ?_, fun pend k he => ?_⟩
  · rw [step_idle_input he hin, serveInput_read_window { s with inputs := rest } hoff, hostRead_eq_respond,
      readResponse_inputs]
    rfl
  · rw [step_waiting_input he hin, serveInput_read_window { s with inputs := rest, eng := .busy pend k } hoff,
      hostRead_eq_respond, readResponse_serving off bits he]
    rfl

/-! ### The byte order of buffer words (R74) -/

/-- Bits `8j+7:8j` of a buffer word are its byte `j`. -/
theorem bufferWord_byte (s : State) (off : Nat) {j : Nat} (hj : j < 4) :
    (bufferWord s off).extractLsb' (8 * j) 8 = byteAt s (off + j) := by
  refine BitVec.eq_of_getLsbD_eq fun i hi => ?_
  simp only [bufferWord, BitVec.getLsbD_extractLsb', BitVec.getLsbD_append]
  interval_cases j <;> grind

/-- The bytes of a word in the order in which a write to IN stores them. -/
theorem wordBytes_getElem? (w : Word) {j : Nat} (hj : j < 4) :
    [w.extractLsb' 0 8, w.extractLsb' 8 8, w.extractLsb' 16 8, w.extractLsb' 24 8][j]? =
      some (w.extractLsb' (8 * j) 8) := by
  interval_cases j <;> rfl

theorem registerWrite_in {off : Nat} (h : inBase ≤ off ∧ off < outBase) (w : Word) (s : State) :
    registerWrite off w s = writeInWord off w s := by
  have hcmd : off ≠ 0x000 := by simp only [inBase] at h; omega
  have hseed : off ≠ 0x008 := by simp only [inBase] at h; omega
  rw [registerWrite, if_neg hcmd, if_neg hseed, if_pos h]

theorem registerRead_in (s : State) {off : Nat} (h : inBase ≤ off ∧ off < outBase) :
    registerRead s off = bufferWord s off := by
  rw [registerRead_high s (by simp only [inBase] at h; omega), if_pos h]

theorem registerRead_out_idle {s : State} (he : s.eng = .idle) {off : Nat} (h : outBase ≤ off ∧ off < bufferEnd) :
    registerRead s off = bufferWord s off := by
  rw [registerRead_high s (by simp only [outBase] at h; omega), if_neg (by omega), if_pos h, busy_eq_false.mpr he]
  rfl

/-- An aligned write to IN while IDLE stores the four bytes of the word there. -/
theorem hostWrite_in_mem {s : State} (he : s.eng = .idle) {off : Nat} (h : inBase ≤ off ∧ off < outBase)
    (ha : off % 4 = 0) (w : Word) :
    (hostWrite off 32 w s).mem =
      Memory.putList s.mem off [w.extractLsb' 0 8, w.extractLsb' 8 8, w.extractLsb' 16 8, w.extractLsb' 24 8] := by
  rw [hostWrite_aligned_idle he ha, registerWrite_in h, respond_mem, writeInWord_mem]

/-- Settles O15: the bytes stored by a write, then the bytes of a word read. -/
theorem bufferWordsAreLittleEndian : Obligations.BufferWordsAreLittleEndian := by
  refine ⟨fun s k w hk he => ?_, fun s k j hk hj => ⟨?_, fun he => ?_⟩⟩
  · rw [hostWrite_in_mem he (by simp only [inBase, outBase]; omega) (by omega)]
    refine ⟨fun j hj => ?_, fun a ha => Memory.get?_putList_outside _ _ _ ha⟩
    exact (Memory.get?_putList_inside _ _ _ hj).trans (wordBytes_getElem? w hj)
  · rw [registerRead_in s (by simp only [inBase, outBase]; omega)]
    exact bufferWord_byte s _ hj
  · rw [registerRead_out_idle he (by simp only [outBase, bufferEnd]; omega)]
    exact bufferWord_byte s _ hj

/-! ### What a command can write (R70) -/

/-- What the engine never writes is in `t` as in `s`. -/
structure State.KeptByEngine (s t : State) : Prop where
  cmd : t.cmd = s.cmd
  seed : t.seed = s.seed
  hazard : t.status.hazard = s.status.hazard
  cmdErr : t.status.cmdErr = s.status.cmdErr
  par : t.par = s.par
  inputs : t.inputs = s.inputs
  outbox : t.outbox = s.outbox
  outsideOut : ∀ a, ¬ (outBase ≤ a ∧ a < bufferEnd) → Memory.get? t.mem a = Memory.get? s.mem a

theorem State.KeptByEngine.refl (s : State) : s.KeptByEngine s := ⟨rfl, rfl, rfl, rfl, rfl, rfl, rfl, fun _ _ => rfl⟩

/-- A write that fits OUT reaches nothing else. -/
theorem writeOut_kept (s : State) {bs : List Byte} (hbs : bs.length ≤ 256) : s.KeptByEngine (writeOut bs s) :=
  { State.KeptByEngine.refl s with
    outsideOut := fun a ha =>
      Memory.get?_putList_outside _ _ _ (by simp only [outBase, bufferEnd] at ha ⊢; omega) }

theorem headerFecResult_kept (s : State) {b : List Byte} (hb : b.length = 15) (draw : Nat) :
    s.KeptByEngine (headerFecResult (rsDecode s.par draw 2 b) s) := by
  cases hd : rsDecode s.par draw 2 b with
  | fail => exact { State.KeptByEngine.refl s with }
  | ok c k =>
    obtain ⟨hlen, -⟩ := rsDecode_ok (by omega) (by omega) hd
    exact { writeOut_kept s (bs := c) (by omega) with }

theorem payloadFecResult_kept (s : State) {b : List Byte} (hlo : 16 ≤ b.length) (hhi : b.length ≤ 256) (draw : Nat) :
    s.KeptByEngine (payloadFecResult (rsDecode s.par draw 16 b) s) := by
  cases hd : rsDecode s.par draw 16 b with
  | fail => exact { State.KeptByEngine.refl s with }
  | ok c k =>
    obtain ⟨hlen, -⟩ := rsDecode_ok (by omega) hlo hd
    exact { writeOut_kept s (bs := c) (by omega) with }

/-- DECODE_FRAME discards, and then writes no byte, or its record fits OUT: 35 bytes and the payload of a frame of at
most 256 bytes. -/
theorem decodeFrame_kept {s t : State} (hx : exec .decodeFrame s = .next t) : s.KeptByEngine t := by
  rcases decodeFrame_cases s with ⟨r, so, hdr, pay, cnt, -, -, -, -, e⟩ | ⟨hc, k, pc, m, n, hhc, -, hpc, -, hfit, e⟩ <;>
    rw [e] at hx <;> cases hx
  · exact { State.KeptByEngine.refl s with }
  · have hbase : 16 ≤ payloadBase s.par := Nat.add_le_add_right (hdrOffset_pos s.par) 15
    have hbyte := (byteAt s inBase).isLt
    obtain ⟨record, hlen, e⟩ := framePayload_record (f := rawFrame s) (s := beforePayload s k m n) hhc hpc
      (by rw [length_rawFrame]; exact hfit)
    rw [e]
    exact { writeOut_kept s (bs := record) (by omega) with }

/-- Every well-formed command keeps what the engine never writes; a drawn or decoded block is as long as the block read,
so it fits OUT. -/
theorem exec_kept {i : Instr} {s t : State} (hwf : i.wf = true) (hx : exec i s = .next t) : s.KeptByEngine t := by
  cases i with
  | decodeFrame => exact decodeFrame_kept hx
  | rsDecodeHdr =>
    cases hx
    exact { headerFecResult_kept s (length_readIn s 15) s.draws with }
  | rsDecodePay n =>
    cases hx
    have hn : 1 ≤ n.toNat ∧ n.toNat ≤ 239 := of_decide_eq_true hwf
    exact { payloadFecResult_kept s (b := readIn s (n.toNat + 16)) (by simp) (by simp; omega) s.draws with }
  | descramble n =>
    cases hx
    exact { writeOut_kept s (bs := descrambleBytes s.seed (readIn s n.toNat)) (by simp; omega) with }
  | validate n =>
    cases hx
    exact { State.KeptByEngine.refl s with }
  | lengthDecode =>
    cases hx
    exact { State.KeptByEngine.refl s with }
  | hammingCrc =>
    cases hx
    exact { State.KeptByEngine.refl s with }
  | crcCheck np n =>
    cases hx
    exact { State.KeptByEngine.refl s with }

/-- Settles O25, by `exec_kept`. -/
theorem engineWritesOnlyOutAndResults : Obligations.EngineWritesOnlyOutAndResults := by
  intro i s t hwf hx
  obtain ⟨hcmd, hseed, hhazard, hcmdErr, hpar, hinputs, houtbox, hmem⟩ := exec_kept hwf hx
  exact ⟨hcmd, hseed, hhazard, hcmdErr, hpar, hinputs, houtbox, hmem⟩

/-! ### DECODE_FRAME reads no byte beyond LEN (R78)

Once the frame is read, the stages do not look at memory: with other memory `m` they give the same registers, and they
write the same bytes at OUT. -/

/-- From `s`, the stage `F` reads no memory: it writes the same bytes at OUT (none, when it discards) and the same
registers, whatever the memory is. -/
def ReadsNoMemory (F : State → State) (s : State) : Prop :=
  ∃ bs, ∀ m, F { s with mem := m } = { F s with mem := Memory.putList m outBase bs }

theorem framePayloadFec_readsNoMemory (f hc : List Byte) (n : Nat) (s : State) :
    ReadsNoMemory (framePayloadFec f hc n) s := by
  cases hd : rsDecode s.par s.draws 16 (slice f (payloadBase s.par) (n + 16)) with
  | fail =>
    refine ⟨[], fun m => ?_⟩
    rw [framePayloadFec_fail hd, framePayloadFec_fail (s := { s with mem := m }) hd]
    rfl
  | ok pc k =>
    refine ⟨outRecord hc (slice f (payloadBase s.par + n + 16) 4) pc n (descrambleBytes s.seed (pc.take n)),
      fun m => ?_⟩
    rw [framePayloadFec_ok hd, framePayloadFec_ok (s := { s with mem := m }) hd]
    rfl

theorem frameLength_readsNoMemory (f hc : List Byte) (n : BitVec 10) (s : State) :
    ReadsNoMemory (frameLength f hc n) s := by
  by_cases hzero : n = 0
  · refine ⟨[], fun m => ?_⟩
    rw [frameLength_zero hzero, frameLength_zero hzero]
    rfl
  by_cases hshort : f.length - payloadBase s.par < n.toNat + 20
  · refine ⟨[], fun m => ?_⟩
    rw [frameLength_short hzero hshort, frameLength_short (s := { s with mem := m }) hzero hshort]
    rfl
  · obtain ⟨bs, h⟩ := framePayloadFec_readsNoMemory f hc n.toNat s
    have hfits : n.toNat + 20 ≤ f.length - payloadBase s.par := Nat.le_of_not_lt hshort
    refine ⟨bs, fun m => ?_⟩
    rw [frameLength_ok hzero hfits, frameLength_ok (s := { s with mem := m }) hzero hfits]
    exact h m

theorem frameHeader_readsNoMemory (f hc : List Byte) (s : State) : ReadsNoMemory (frameHeader f hc) s := by
  obtain ⟨bs, h⟩ := frameLength_readsNoMemory f hc (lengthOf (descrambleBytes s.seed (hc.take 13)))
    (setLength (lengthOf (descrambleBytes s.seed (hc.take 13)))
      { s with status := { s.status with scramblerOk := true } })
  refine ⟨bs, fun m => ?_⟩
  rw [frameHeader_eq, frameHeader_eq]
  exact h m

theorem frameHeaderFec_readsNoMemory (f : List Byte) (s : State) : ReadsNoMemory (frameHeaderFec f) s := by
  by_cases hshort : f.length < hdrOffset s.par + 15
  · refine ⟨[], fun m => ?_⟩
    rw [frameHeaderFec_truncated hshort, frameHeaderFec_truncated (s := { s with mem := m }) hshort]
    rfl
  have hlong : hdrOffset s.par + 15 ≤ f.length := Nat.le_of_not_lt hshort
  cases hd : rsDecode s.par s.draws 2 (slice f (hdrOffset s.par) 15) with
  | fail =>
    refine ⟨[], fun m => ?_⟩
    rw [frameHeaderFec_fail hlong hd, frameHeaderFec_fail (s := { s with mem := m }) hlong hd]
    rfl
  | ok hc k =>
    obtain ⟨bs, h⟩ := frameHeader_readsNoMemory f hc { s with hdrCorr := corrDecoded k }
    refine ⟨bs, fun m => ?_⟩
    rw [frameHeaderFec_ok hlong hd, frameHeaderFec_ok (s := { s with mem := m }) hlong hd]
    exact h m

theorem byteAt_congr_mem {s : State} {m : List Host.Cell} {a : Nat} (h : Memory.get? m a = Memory.get? s.mem a) :
    byteAt { s with mem := m } a = byteAt s a := by
  simp only [byteAt, h]

/-- The frame is LEN and the LEN bytes after it, so memory that agrees there holds the same frame (R222). -/
theorem rawFrame_congr_mem {s : State} {m : List Host.Cell}
    (h : ∀ i, i ≤ (byteAt s inBase).toNat → Memory.get? m (inBase + i) = Memory.get? s.mem (inBase + i)) :
    rawFrame { s with mem := m } = rawFrame s := by
  have hlen : byteAt { s with mem := m } inBase = byteAt s inBase := byteAt_congr_mem (h 0 (Nat.zero_le _))
  simp only [rawFrame, readIn, bytesAt, hlen]
  refine List.map_congr_left fun i hi => byteAt_congr_mem (h i ?_)
  rw [List.mem_range] at hi
  omega

/-- Two memories that agree at an offset still do after the same bytes are written to both. -/
theorem Memory.get?_putList_congr {m m' : List Host.Cell} {b : Nat} (h : Memory.get? m b = Memory.get? m' b) (a : Nat)
    (vs : List Byte) : Memory.get? (Memory.putList m a vs) b = Memory.get? (Memory.putList m' a vs) b := by
  rw [Memory.get?_putList, Memory.get?_putList, h]

/-- Settles O55: both runs have the same frame, and from there on the stages read no memory. -/
theorem decodeFrameIgnoresBytesBeyondLen : Obligations.DecodeFrameIgnoresBytesBeyondLen := by
  intro s m hm
  have hframe : rawFrame { s with mem := m } = rawFrame s := rawFrame_congr_mem fun i hi => hm _ (by omega)
  obtain ⟨bs, h⟩ := frameHeaderFec_readsNoMemory (rawFrame s) (clearResults s)
  have ht : (frameHeaderFec (rawFrame s) (clearResults s)).mem = Memory.putList s.mem outBase bs :=
    congrArg State.mem (h s.mem)
  have hu : frameHeaderFec (rawFrame { s with mem := m }) (clearResults { s with mem := m }) =
      { frameHeaderFec (rawFrame s) (clearResults s) with mem := Memory.putList m outBase bs } := by
    rw [hframe]
    exact h m
  refine ⟨_, _, rfl, rfl, by rw [hu]; rfl, fun a ha => ?_⟩
  rw [complete_mem, complete_mem, hu, ht]
  exact Memory.get?_putList_congr (hm a ha) outBase bs

end Sys2Proof.Machine
end

section
/-! PROOFS. The command words (30_encoding.md): the fields of a written word, the decoder as the inverse of the encoder,
and the legality table as the numbers of the well-formed commands. -/

namespace Sys2Proof.Machine

/-! ### The fields of a written word (R100) -/

/-- The word as a number: `(LEN << 8) | (NP << 4) | OP` (R108). -/
theorem toNat_commandWord (op : BitVec 4) (np : Bool) (len : BitVec 8) :
    (commandWord op np len).toNat = 256 * len.toNat + 16 * np.toNat + op.toNat := by
  have hop := op.isLt
  have hnp : np.toNat < 2 ^ 1 := np.toNat_lt
  simp only [commandWord, BitVec.toNat_append, BitVec.toNat_ofNat, BitVec.toNat_ofBool, Nat.zero_mod,
    Nat.zero_shiftLeft, Nat.zero_or, Nat.or_zero]
  rw [← Nat.shiftLeft_add_eq_or_of_lt hop, ← Nat.shiftLeft_add_eq_or_of_lt hnp]
  simp only [Nat.shiftLeft_eq]
  omega

@[simp] theorem opField_commandWord (op : BitVec 4) (np : Bool) (len : BitVec 8) :
    opField (commandWord op np len) = op := by
  refine BitVec.eq_of_toNat_eq ?_
  rw [toNat_opField, toNat_commandWord]
  omega

@[simp] theorem npField_commandWord (op : BitVec 4) (np : Bool) (len : BitVec 8) :
    npField (commandWord op np len) = np := by
  rw [npField_eq, toNat_commandWord]
  cases np <;> simp only [Bool.toNat_false, Bool.toNat_true, decide_eq_true_eq, decide_eq_false_iff_not] <;> omega

@[simp] theorem lenField_commandWord (op : BitVec 4) (np : Bool) (len : BitVec 8) :
    lenField (commandWord op np len) = len := by
  have hnp := np.toNat_lt
  refine BitVec.eq_of_toNat_eq ?_
  rw [toNat_lenField, toNat_commandWord]
  omega

@[simp] theorem reserved_commandWord (op : BitVec 4) (np : Bool) (len : BitVec 8) :
    rsv0Field (commandWord op np len) = 0 ∧ rsv1Field (commandWord op np len) = 0 := by
  have hnp := np.toNat_lt
  rw [reserved_eq_zero, toNat_commandWord]
  omega

/-- A word without reserved bits is written from its three fields. -/
theorem commandWord_fields {w : Word} (hrsv : rsv0Field w = 0 ∧ rsv1Field w = 0) :
    commandWord (opField w) (npField w) (lenField w) = w := by
  have hzero := (reserved_eq_zero w).mp hrsv
  have hnp : (npField w).toNat = w.toNat / 2 ^ 4 % 2 := Nat.toNat_testBit w.toNat 4
  refine BitVec.eq_of_toNat_eq ?_
  rw [toNat_commandWord, toNat_opField, toNat_lenField, hnp]
  omega

/-! ### The decoder's checks (R102 to R104) -/

theorem decodeCounted_eq_ok {w : Word} {i j : Instr} : decodeCounted w i = .ok j ↔ npField w = false ∧ i = j := by
  rw [decodeCounted]
  split <;> simp_all

theorem decodeBare_eq_ok {w : Word} {i j : Instr} :
    decodeBare w i = .ok j ↔ npField w = false ∧ lenField w = 0 ∧ i = j := by
  rw [decodeBare]
  split
  · simp_all
  · split <;> simp_all

theorem decodePay_eq_ok {w : Word} {j : Instr} :
    decodePay w = .ok j ↔ npField w = false ∧ j.wf = true ∧ .rsDecodePay (lenField w) = j := by
  rw [decodePay]
  split
  · simp_all
  · split <;> grind

/-- Only words without reserved bits are accepted. -/
theorem reserved_of_decode {w : Word} {i : Instr} (h : decode w = .ok i) : rsv0Field w = 0 ∧ rsv1Field w = 0 := by
  rw [decode] at h
  split at h
  · cases h
  · next hrsv => simpa using hrsv

/-! ### The decoder and the encoder are inverse -/

/-- Settles O1: the written word has the command's fields, and they pass the checks of its opcode. -/
theorem decodeOfEncodeIsTheCommand : Obligations.DecodeOfEncodeIsTheCommand := by
  intro i hwf
  cases i with
  | decodeFrame | rsDecodeHdr | lengthDecode | hammingCrc => simp [decode, encode, decodeBare_eq_ok]
  | rsDecodePay n => simp [decode, encode, decodePay_eq_ok, hwf]
  | descramble n | validate n => simp [decode, encode, decodeCounted_eq_ok]
  | crcCheck np n => simp [decode, encode]

/-- A word is the encoding of the command it decodes to: the fields the decoder does not hand on are zero. -/
theorem encode_of_decode {w : Word} {i : Instr} (h : decode w = .ok i) : encode i = w := by
  have hrsv := reserved_of_decode h
  have hop : opField w = BitVec.ofNat 4 (opField w).toNat := by simp
  rw [← commandWord_fields hrsv, hop]
  simp only [decode, hrsv, ne_eq, not_true_eq_false, or_self, if_false] at h
  split at h
  case h_1 he | h_2 he | h_6 he | h_7 he =>
    obtain ⟨hnp, hlen, rfl⟩ := decodeBare_eq_ok.mp h
    rw [he, hnp, hlen]; rfl
  case h_3 he =>
    obtain ⟨hnp, -, rfl⟩ := decodePay_eq_ok.mp h
    rw [he, hnp]; rfl
  case h_4 he | h_5 he =>
    obtain ⟨hnp, rfl⟩ := decodeCounted_eq_ok.mp h
    rw [he, hnp]; rfl
  case h_8 he =>
    cases h
    rw [he]; rfl
  case h_9 => cases h

/-- R106 and R108: the decoder accepts exactly the encodings of the well-formed commands, each as that command. -/
theorem decode_eq_ok_iff {w : Word} {i : Instr} : decode w = .ok i ↔ i.wf = true ∧ encode i = w := by
  refine ⟨fun h => ⟨wf_of_decode h, encode_of_decode h⟩, ?_⟩
  rintro ⟨hwf, rfl⟩
  exact decodeOfEncodeIsTheCommand i hwf

/-! ### Command words as numbers (R104, R108) -/

theorem toNat_encode (i : Instr) : (encode i).toNat = commandNumber i := by
  cases i <;> simp [encode, commandNumber, toNat_commandWord]

theorem decode_eq_ok_iff_number {w : Word} {i : Instr} :
    decode w = .ok i ↔ i.wf = true ∧ w.toNat = commandNumber i := by
  rw [decode_eq_ok_iff, ← toNat_encode, BitVec.toNat_inj, eq_comm (a := w)]

/-- The table lists the number of every well-formed command. -/
theorem legalByTable_commandNumber {i : Instr} (hwf : i.wf = true) : legalByTable (commandNumber i) = true := by
  refine decide_eq_true ?_
  cases i with
  | decodeFrame | rsDecodeHdr | lengthDecode | hammingCrc => decide
  | rsDecodePay n =>
    have hn : 1 ≤ n.toNat ∧ n.toNat ≤ 239 := of_decide_eq_true hwf
    simp only [commandNumber]
    omega
  | descramble n | validate n =>
    simp only [commandNumber]
    omega
  | crcCheck np n =>
    have hnp := np.toNat_lt
    simp only [commandNumber]
    omega

/-- The table lists nothing else: each of its rows is a command, with the word's LEN and NP as operands. -/
theorem exists_command_of_legalByTable {w : Nat} (h : legalByTable w = true) :
    ∃ i : Instr, i.wf = true ∧ w = commandNumber i := by
  simp only [legalByTable, decide_eq_true_eq] at h
  obtain ⟨hrsv0, hrsv1, hrow⟩ := h
  have hlen : (BitVec.ofNat 8 (w / 256)).toNat = w / 256 % 256 := BitVec.toNat_ofNat _ _
  rcases hrow with ⟨hop, hl, hnp⟩ | ⟨hop, hl, hnp⟩ | ⟨hop, hlo, hhi, hnp⟩ | ⟨hop, hnp⟩ | ⟨hop, hnp⟩ | ⟨hop, hl, hnp⟩ |
    ⟨hop, hl, hnp⟩ | hop
  · exact ⟨.decodeFrame, rfl, by rw [commandNumber]; omega⟩
  · exact ⟨.rsDecodeHdr, rfl, by rw [commandNumber]; omega⟩
  · exact ⟨.rsDecodePay (BitVec.ofNat 8 (w / 256)), decide_eq_true (by omega), by rw [commandNumber]; omega⟩
  · exact ⟨.descramble (BitVec.ofNat 8 (w / 256)), rfl, by rw [commandNumber]; omega⟩
  · exact ⟨.validate (BitVec.ofNat 8 (w / 256)), rfl, by rw [commandNumber]; omega⟩
  · exact ⟨.lengthDecode, rfl, by rw [commandNumber]; omega⟩
  · exact ⟨.hammingCrc, rfl, by rw [commandNumber]; omega⟩
  · have hnp := Nat.toNat_testBit w 4
    exact ⟨.crcCheck (w.testBit 4) (BitVec.ofNat 8 (w / 256)), rfl, by rw [commandNumber]; omega⟩

/-- Settles O2: decoder and table both list the numbers of the well-formed commands. -/
theorem decodeAcceptsExactlyTheLegalityTable : Obligations.DecodeAcceptsExactlyTheLegalityTable := by
  refine fun w => ⟨fun ⟨i, h⟩ => ?_, fun h => ?_⟩
  · obtain ⟨hwf, hw⟩ := decode_eq_ok_iff_number.mp h
    exact hw ▸ legalByTable_commandNumber hwf
  · obtain ⟨i, hi⟩ := exists_command_of_legalByTable h
    exact ⟨i, decode_eq_ok_iff_number.mpr hi⟩

/-- Settles O3: `decode_eq_ok_iff_number`, O2, and the word of a command is its encoding. -/
theorem decodeNamesTheCommandOfTheWord : Obligations.DecodeNamesTheCommandOfTheWord := by
  refine ⟨fun w i => decode_eq_ok_iff_number, decodeAcceptsExactlyTheLegalityTable, fun v w i j hv hw => ⟨?_, ?_⟩⟩
  · rintro rfl
    exact (encode_of_decode hv).symm.trans (encode_of_decode hw)
  · rintro rfl
    exact Except.ok.inj (hv.symm.trans hw)

/-! ### The command words of the vectors -/

/-- Settles O4, by running the decoder on the twenty-one words. -/
theorem sampleWordsDecode : Obligations.SampleWordsDecode := by
  unfold Obligations.SampleWordsDecode
  decide

end Sys2Proof.Machine
end

section
/-! PROOFS. The FEC commands and the frames of the primitive commands (40_fec.md rules R141, R145 and R146): what a
write of OUT leaves, and what each decoder answer turns into. -/

namespace Sys2Proof.Machine

open Sys2Proof.Config

/-! ### A write of OUT (R46, R72) -/

theorem holdsOut_writeOut (bs : List Byte) (s : State) : holdsOut (writeOut bs s) 0 bs :=
  fun _ hi => Memory.get?_putList_inside s.mem outBase bs hi

theorem sameOutside_writeOut (bs : List Byte) (s : State) : sameOutside s (writeOut bs s) bs.length :=
  fun _ ha => Memory.get?_putList_outside s.mem outBase bs ha

theorem toNat_outLen_writeOut {bs : List Byte} (h : bs.length ≤ 256) (s : State) :
    (writeOut bs s).outLen.toNat = bs.length := by
  rw [writeOut_outLen, BitVec.toNat_ofNat]
  omega

/-- OUT_LEN says how far a write reached. -/
theorem sameOutside_outLen_writeOut {bs : List Byte} (h : bs.length ≤ 256) (s : State) :
    sameOutside s (writeOut bs s) (writeOut bs s).outLen.toNat :=
  (toNat_outLen_writeOut h s).symm ▸ sameOutside_writeOut bs s

theorem sameOutside_of_mem {s t : State} (h : t.mem = s.mem) (n : Nat) : sameOutside s t n := fun _ _ => by rw [h]

/-! ### The correction registers (R42, R43) -/

theorem corrWord_decoded {k : Nat} (h : k ≤ 8) : corrWord (corrDecoded k) = 0x100 + BitVec.ofNat 32 k := by
  refine BitVec.eq_of_toNat_eq ?_
  rw [toNat_corrWord]
  simp [corrDecoded, corrStateCode]
  omega

theorem corrWord_failed : corrWord corrFailed = 0x200 := rfl

/-! ### The decoder's answers reported -/

/-- Settles O46: under RS_BEYOND_T = fail the decoder answers OK only by its bounded branch. -/
theorem correctionCountIsTheDistance : Obligations.CorrectionCountIsTheDistance := by
  intro par draw p b c k hbeyond hb h
  refine rsBounded_ok hb ?_
  cases hbd : rsBounded par p b with
  | ok c' k' => simpa [rsDecode, hbd] using h
  | fail => simp [rsDecode, hbd, hbeyond] at h

/-- Settles O47, by cases on the decoder's answer. -/
theorem rsDecodeHdrReportsTheDecoder : Obligations.RsDecodeHdrReportsTheDecoder := by
  refine fun s => ⟨_, rfl, fun c k hd => ?_, fun hd => ?_⟩ <;> rw [hd]
  · obtain ⟨hlen, hk⟩ := rsDecode_ok (by omega) (by simp) hd
    rw [length_readIn] at hlen
    exact ⟨hlen, holdsOut_writeOut c s, hlen ▸ sameOutside_writeOut c s,
      congrArg (BitVec.ofNat 9) hlen, corrWord_decoded (by omega), rfl⟩
  · exact ⟨rfl, rfl, corrWord_failed, rfl⟩

/-- Settles O48, by cases on the decoder's answer. -/
theorem rsDecodePayReportsTheDecoder : Obligations.RsDecodePayReportsTheDecoder := by
  intro n s hwf
  have hn : 1 ≤ n.toNat ∧ n.toNat ≤ 239 := of_decide_eq_true hwf
  refine ⟨_, rfl, fun c k hd => ?_, fun hd => ?_⟩ <;> rw [hd]
  · obtain ⟨hlen, hk⟩ := rsDecode_ok (by omega) (by simp) hd
    rw [length_readIn] at hlen
    exact ⟨hlen, holdsOut_writeOut c s, hlen ▸ sameOutside_writeOut c s,
      (toNat_outLen_writeOut (by omega) s).trans hlen, corrWord_decoded hk, rfl⟩
  · exact ⟨rfl, rfl, corrWord_failed, rfl⟩

/-! ### Frames -/

/-- RS_DECODE_HDR leaves all but OUT, OUT_LEN, HDR_CORR and REASON (R145). -/
theorem rsDecodeHdr_frame {s t : State} (hx : exec .rsDecodeHdr s = .next t) :
    t.payCorr = s.payCorr ∧ t.payloadCount = s.payloadCount ∧ t.fcs = s.fcs ∧ sameOutside s t t.outLen.toNat ∧
      t.status = { s.status with done := true, reason := t.status.reason } := by
  cases hx
  cases hd : rsDecode s.par s.draws 2 (readIn s 15) with
  | fail => exact ⟨rfl, rfl, rfl, sameOutside_of_mem rfl _, rfl⟩
  | ok c k =>
    obtain ⟨hlen, -⟩ := rsDecode_ok (by omega) (by simp) hd
    rw [length_readIn] at hlen
    exact ⟨rfl, rfl, rfl, sameOutside_outLen_writeOut (bs := c) (by omega) s, rfl⟩

/-- RS_DECODE_PAY leaves all but OUT, OUT_LEN, PAY_CORR and REASON (R146). -/
theorem rsDecodePay_frame {n : BitVec 8} {s t : State} (hwf : Instr.wf (.rsDecodePay n) = true)
    (hx : exec (.rsDecodePay n) s = .next t) :
    t.hdrCorr = s.hdrCorr ∧ t.payloadCount = s.payloadCount ∧ t.fcs = s.fcs ∧ sameOutside s t t.outLen.toNat ∧
      t.status = { s.status with done := true, reason := t.status.reason } := by
  have hn : 1 ≤ n.toNat ∧ n.toNat ≤ 239 := of_decide_eq_true hwf
  cases hx
  cases hd : rsDecode s.par s.draws 16 (readIn s (n.toNat + 16)) with
  | fail => exact ⟨rfl, rfl, rfl, sameOutside_of_mem rfl _, rfl⟩
  | ok c k =>
    obtain ⟨hlen, -⟩ := rsDecode_ok (by omega) (by simp) hd
    rw [length_readIn] at hlen
    exact ⟨rfl, rfl, rfl, sameOutside_outLen_writeOut (bs := c) (by omega) s, rfl⟩

/-- DESCRAMBLE writes as many bytes of OUT as it reads of IN (R177). -/
theorem descramble_frame {n : BitVec 8} {s t : State} (hx : exec (.descramble n) s = .next t) :
    t.hdrCorr = s.hdrCorr ∧ t.payCorr = s.payCorr ∧ t.payloadCount = s.payloadCount ∧ t.fcs = s.fcs ∧
      sameOutside s t n.toNat ∧ t.status = { s.status with done := true, reason := .none } := by
  cases hx
  have hlen : (descrambleBytes s.seed (readIn s n.toNat)).length = n.toNat := by simp
  have hmem := sameOutside_writeOut (descrambleBytes s.seed (readIn s n.toNat)) s
  rw [hlen] at hmem
  exact ⟨rfl, rfl, rfl, rfl, hmem, rfl⟩

/-- Settles O26: the three commands that write OUT by their frame lemmas; the others are one record update each. -/
theorem primitiveCommandsLeaveOtherResults : Obligations.PrimitiveCommandsLeaveOtherResults := by
  refine ⟨fun s t => rsDecodeHdr_frame, fun n s t => rsDecodePay_frame, fun n s t => descramble_frame,
    fun n s t hx => ?validate, fun s t hx => ?lengthDecode, fun s t hx => ?hammingCrc, fun np n s t hx => ?crcCheck⟩
  all_goals cases hx
  case validate => exact ⟨rfl, rfl⟩
  case lengthDecode => exact ⟨rfl, rfl⟩
  case hammingCrc => exact ⟨rfl, rfl, rfl⟩
  case crcCheck => exact ⟨rfl, rfl, rfl⟩

end Sys2Proof.Machine
end

section
/-! PROOFS. GF(256) as a ring of polynomials over GF(2) modulo RS_PRIM_POLY (40_fec.md §1, rules R130 and R131): `gf`
maps a byte to the class of its polynomial, turns `^^^` and `gfMul` into the ring's `+` and `*`, and is injective. The
laws of the byte arithmetic are the ring's. -/

namespace Sys2Proof.Machine

open Sys2Proof.Config Polynomial

/-! ### Bytes as polynomials over GF(2) -/

/-- The polynomial `Σ b[i]·z^i` of a byte (R130). -/
noncomputable def bitPoly (b : Byte) : (ZMod 2)[X] :=
  ∑ i ∈ Finset.range 8, if b.getLsbD i then X ^ i else 0

theorem coeff_bitPoly (b : Byte) (i : Nat) : (bitPoly b).coeff i = if b.getLsbD i then 1 else 0 := by
  have hterm : ∀ j, (if b.getLsbD j then (X : (ZMod 2)[X]) ^ j else 0).coeff i =
      if i = j then (if b.getLsbD i then 1 else 0) else 0 := by
    intro j
    split <;> split <;> simp_all [coeff_X_pow]
  rw [bitPoly, finsetSum_coeff, Finset.sum_congr rfl fun j _ => hterm j, Finset.sum_ite_eq]
  split
  · rfl
  · rw [BitVec.getLsbD_of_ge _ _ (by simpa using ‹i ∉ Finset.range 8›)]
    rfl

theorem bitPoly_xor (a b : Byte) : bitPoly (a ^^^ b) = bitPoly a + bitPoly b := by
  ext i
  rw [coeff_add, coeff_bitPoly, coeff_bitPoly, coeff_bitPoly, BitVec.getLsbD_xor]
  cases a.getLsbD i <;> cases b.getLsbD i <;> decide

theorem bitPoly_degree_lt (b : Byte) : (bitPoly b).degree < 8 :=
  (degree_lt_iff_coeff_zero _ _).mpr fun i hi => by
    rw [coeff_bitPoly, BitVec.getLsbD_of_ge _ _ hi]
    rfl

theorem bitPoly_eq_zero {b : Byte} (h : bitPoly b = 0) : b = 0#8 := by
  refine BitVec.eq_of_getLsbD_eq fun i _ => ?_
  have hi := coeff_bitPoly b i
  rw [h, coeff_zero] at hi
  cases hb : b.getLsbD i
  · simp
  · simp [hb] at hi

/-- A shift by one place is a multiplication by `z`, but for the bit shifted out. -/
theorem bitPoly_shiftLeft (b : Byte) :
    bitPoly (b <<< 1) + (if b.msb then X ^ 8 else 0) = X * bitPoly b := by
  have hmsb : (if b.msb then X ^ 8 else (0 : (ZMod 2)[X])) = if b.getLsbD 7 then X ^ 8 else 0 := by
    simp [BitVec.msb_eq_getLsbD_last]
  ext i
  rw [hmsb, coeff_add, coeff_bitPoly, BitVec.getLsbD_shiftLeft]
  rcases i with _ | i
  · cases b.getLsbD 7 <;> simp [coeff_X_pow]
  rw [coeff_X_mul, coeff_bitPoly]
  rcases Nat.lt_trichotomy i 7 with hi | rfl | hi
  · have hne : i ≠ 7 := by omega
    cases b.getLsbD 7 <;> simp [coeff_X_pow, hne, show i + 1 < 8 by omega]
  · cases hb : b.getLsbD 7 <;> simp [coeff_X_pow]
  · have hne : i ≠ 7 := by omega
    have hhigh := BitVec.getLsbD_of_ge b i (by omega)
    cases b.getLsbD 7 <;> simp [coeff_X_pow, hne, hhigh]

/-! ### The ring of the field polynomial -/

/-- RS_PRIM_POLY with its `z^8` coefficient 1 (R13), which `gfTimesZ` takes for granted. -/
noncomputable def fieldPoly (par : Params) : (ZMod 2)[X] := X ^ 8 + bitPoly (par.rsPrimPoly.setWidth 8)

theorem fieldPoly_monic (par : Params) : (fieldPoly par).Monic := monic_X_pow_add (bitPoly_degree_lt _)

theorem fieldPoly_degree (par : Params) : (fieldPoly par).degree = 8 := by
  have hlt : (bitPoly (par.rsPrimPoly.setWidth 8)).degree < (X ^ 8 : (ZMod 2)[X]).degree := by
    rw [degree_X_pow]
    exact bitPoly_degree_lt _
  rw [fieldPoly, degree_add_eq_left_of_degree_lt hlt, degree_X_pow]
  rfl

/-- The polynomials over GF(2) modulo the field polynomial. -/
abbrev GfRing (par : Params) : Type := AdjoinRoot (fieldPoly par)

/-- The element a byte stands for (R130). -/
noncomputable def gf (par : Params) (b : Byte) : GfRing par := AdjoinRoot.mk (fieldPoly par) (bitPoly b)

section
variable (par : Params)

@[simp] theorem gf_xor (a b : Byte) : gf par (a ^^^ b) = gf par a + gf par b := by
  rw [gf, bitPoly_xor, map_add]
  rfl

theorem gf_zero : gf par 0 = 0 := by
  have h : bitPoly 0 = 0 := by
    ext i
    simp [coeff_bitPoly]
  rw [gf, h, map_zero]

theorem gf_one : gf par 1 = 1 := by
  have h : bitPoly 1 = 1 := by
    ext i
    rw [coeff_bitPoly, coeff_one]
    cases i <;> simp [BitVec.getLsbD_one]
  rw [gf, h, map_one]

/-- `gf_zero` in the form to which `simp` brings the byte 0. -/
@[simp] theorem gf_ofNat_zero : gf par 0#8 = 0 := gf_zero par

/-- `gf_one` in the form to which `simp` brings the byte 1. -/
@[simp] theorem gf_ofNat_one : gf par 1#8 = 1 := gf_one par

variable {par} in
/-- Only the zero byte is zero in the ring: a polynomial of degree below 8 is no multiple of one of degree 8. -/
@[simp] theorem gf_eq_zero {b : Byte} : gf par b = 0 ↔ b = 0#8 := by
  refine ⟨fun h => bitPoly_eq_zero ?_, fun h => h ▸ gf_zero par⟩
  exact eq_zero_of_dvd_of_degree_lt (AdjoinRoot.mk_eq_zero.mp h) (fieldPoly_degree par ▸ bitPoly_degree_lt b)

/-- The ring has characteristic 2: `b ⊕ b = 0`. -/
theorem gf_add_self (b : Byte) : gf par b + gf par b = 0 := by
  rw [← gf_xor, BitVec.xor_self, gf_ofNat_zero]

@[simp] theorem neg_gf (b : Byte) : -gf par b = gf par b := neg_eq_of_add_eq_zero_left (gf_add_self par b)

theorem gf_injective : Function.Injective (gf par) := by
  intro a b h
  have hxor : gf par (a ^^^ b) = 0 := by rw [gf_xor, h, gf_add_self]
  exact BitVec.xor_eq_zero_iff.mp (gf_eq_zero.mp hxor)

theorem gfRing_nontrivial : Nontrivial (GfRing par) :=
  ⟨gf par 0, gf par 1, fun h => absurd (gf_injective par h) (by decide)⟩

/-- Reduction: `z^8` is the sum of the lower terms of the field polynomial. -/
theorem root_pow_eight : AdjoinRoot.root (fieldPoly par) ^ 8 = gf par (par.rsPrimPoly.setWidth 8) := by
  have h : AdjoinRoot.mk (fieldPoly par) (X ^ 8 + bitPoly (par.rsPrimPoly.setWidth 8)) = 0 := AdjoinRoot.mk_self
  rw [map_add, map_pow, AdjoinRoot.mk_X] at h
  rw [eq_neg_of_add_eq_zero_left h]
  exact neg_gf par _

@[simp] theorem gf_gfTimesZ (a : Byte) : gf par (gfTimesZ par a) = AdjoinRoot.root (fieldPoly par) * gf par a := by
  have h := congrArg (AdjoinRoot.mk (fieldPoly par)) (bitPoly_shiftLeft a)
  rw [map_add, map_mul, AdjoinRoot.mk_X] at h
  have hbit : gf par (if a.msb then par.rsPrimPoly.setWidth 8 else 0) =
      AdjoinRoot.mk (fieldPoly par) (if a.msb then X ^ 8 else 0) := by
    split
    · rw [map_pow, AdjoinRoot.mk_X, root_pow_eight]
    · rw [map_zero, gf_zero]
  rw [gfTimesZ, gf_xor, hbit]
  exact h

theorem gf_eq_sum (b : Byte) :
    gf par b = ∑ i ∈ Finset.range 8, if b.getLsbD i then AdjoinRoot.root (fieldPoly par) ^ i else 0 := by
  rw [gf, bitPoly, map_sum]
  refine Finset.sum_congr rfl fun i _ => ?_
  split <;> simp

/-- `⊗` is the ring's multiplication (R130): Horner's rule over the bits of the second factor. -/
@[simp] theorem gf_gfMul (a b : Byte) : gf par (gfMul par a b) = gf par a * gf par b := by
  have hbit : ∀ i, gf par (if b.getLsbD i then a else 0#8) = (if b.getLsbD i then 1 else 0) * gf par a := by
    intro i
    split <;> simp
  have hpow : ∀ i, (if b.getLsbD i then AdjoinRoot.root (fieldPoly par) ^ i else 0) =
      (if b.getLsbD i then 1 else 0) * AdjoinRoot.root (fieldPoly par) ^ i := by
    intro i
    split <;> simp
  rw [gf_eq_sum par b]
  simp only [gfMul, List.foldl_cons, List.foldl_nil, gf_xor, gf_gfTimesZ, BitVec.ofNat_eq_ofNat, gf_ofNat_zero, hbit,
    hpow, Finset.sum_range_succ, Finset.sum_range_zero]
  ring

@[simp] theorem gf_gfPow (a : Byte) (i : Nat) : gf par (gfPow par a i) = gf par a ^ i := by
  induction i with
  | zero => simp [gfPow]
  | succ i ih => rw [gfPow, gf_gfMul, ih, pow_succ]

/-- The inverse is the 254th power (R131). -/
@[simp] theorem gf_gfInv (a : Byte) : gf par (gfInv par a) = gf par a ^ 254 := by
  simp only [gfInv, gf_gfMul]
  ring

theorem natCard_byte : Nat.card Byte = 256 := by
  rw [Nat.card_congr BitVec.equivFin.toEquiv, Nat.card_fin]
  rfl

/-- Every element of the ring is a byte's: the ring has 256 elements too. -/
theorem gf_bijective : Function.Bijective (gf par) := by
  have hcard : Nat.card (GfRing par) = 256 := by
    have := (fieldPoly_monic par).finite_adjoinRoot
    rw [Module.natCard_eq_pow_finrank (K := ZMod 2), (AdjoinRoot.powerBasis' (fieldPoly_monic par)).finrank,
      AdjoinRoot.powerBasis'_dim, natDegree_eq_of_degree_eq_some (fieldPoly_degree par), Nat.card_zmod]
    norm_num
  have := Nat.finite_of_card_ne_zero (hcard ▸ by decide : Nat.card (GfRing par) ≠ 0)
  exact (gf_injective par).bijective_of_nat_card_le (by rw [hcard, natCard_byte])

end

/-! ### The powers of α (R13) -/

/-- The powers listed by `gfPowers`, from one power on. -/
theorem gfPowers_gfPow (par : Params) (a : Byte) (n k : Nat) :
    gfPowers par a n (gfPow par a k) = (List.range n).map fun i => gfPow par a (k + 1 + i) := by
  induction n generalizing k with
  | zero => rfl
  | succ n ih =>
    rw [List.range_succ_eq_map, List.map_cons, List.map_map]
    refine congrArg (gfPow par a (k + 1) :: ·) ((ih (k + 1)).trans ?_)
    refine List.map_congr_left fun i _ => ?_
    rw [Function.comp_apply]
    congr 1
    omega

section
variable {par : Params} (hok : rsFieldOk par = true)
include hok

/-- `α` has order 255. -/
theorem orderOf_alpha : orderOf (gf par par.rsAlpha) = 255 := by
  obtain ⟨⟨-, hall⟩, hlast⟩ : (_ ∧ _) ∧ _ := by simpa only [rsFieldOk, Bool.and_eq_true] using hok
  rw [orderOf_eq_iff (by decide)]
  refine ⟨?_, fun m hm hpos hone => ?_⟩
  · rw [← gf_gfPow, eq_of_beq hlast, gf_one]
  · have hmem : gfPow par par.rsAlpha m ∈ gfPowers par par.rsAlpha 254 1 := by
      rw [show (1 : Byte) = gfPow par par.rsAlpha 0 from rfl, gfPowers_gfPow]
      exact List.mem_map.mpr ⟨m - 1, by simp; omega, by congr 1; omega⟩
    have hne := List.all_eq_true.mp hall _ hmem
    have heq : gfPow par par.rsAlpha m = 1 := gf_injective par (by simp [hone])
    simp [heq] at hne

theorem alpha_pow_255 : gf par par.rsAlpha ^ 255 = 1 := orderOf_alpha hok ▸ pow_orderOf_eq_one _

/-- Distinct exponents below 255 give distinct powers. -/
theorem alpha_pow_inj {i j : Nat} (hi : i < 255) (hj : j < 255)
    (h : gf par par.rsAlpha ^ i = gf par par.rsAlpha ^ j) : i = j :=
  pow_injOn_Iio_orderOf (by rwa [orderOf_alpha hok]) (by rwa [orderOf_alpha hok]) h

theorem gfPow_alpha_ne_zero (i : Nat) : gfPow par par.rsAlpha i ≠ 0 := by
  have := gfRing_nontrivial par
  have hunit := (IsUnit.of_pow_eq_one (alpha_pow_255 hok) (by decide)).pow i
  rw [← gf_gfPow] at hunit
  exact fun h => hunit.ne_zero (gf_eq_zero.mpr h)

/-- The powers of `α` are all the nonzero bytes: there are 255 of either. -/
theorem exists_gfPow_eq {a : Byte} (ha : a ≠ 0) : ∃ i, gfPow par par.rsAlpha i = a := by
  have hinj : Set.InjOn (gfPow par par.rsAlpha) (Finset.range 255) := fun i hi j hj h =>
    alpha_pow_inj hok (by simpa using hi) (by simpa using hj) (by rw [← gf_gfPow, ← gf_gfPow, h])
  have hsub : (Finset.range 255).image (gfPow par par.rsAlpha) ⊆ Finset.univ.erase 0 := fun b hb => by
    obtain ⟨i, hi, rfl⟩ := Finset.mem_image.mp hb
    exact Finset.mem_erase.mpr ⟨gfPow_alpha_ne_zero hok i, Finset.mem_univ _⟩
  have hcard : (Finset.univ.erase (0 : Byte)).card ≤ ((Finset.range 255).image (gfPow par par.rsAlpha)).card := by
    rw [Finset.card_image_of_injOn hinj, Finset.card_range, Finset.card_erase_of_mem (Finset.mem_univ _),
      Finset.card_univ, ← Nat.card_eq_fintype_card, natCard_byte]
  have hmem : a ∈ (Finset.range 255).image (gfPow par par.rsAlpha) :=
    Finset.eq_of_subset_of_card_le hsub hcard ▸ Finset.mem_erase.mpr ⟨ha, Finset.mem_univ _⟩
  obtain ⟨i, -, hi⟩ := Finset.mem_image.mp hmem
  exact ⟨i, hi⟩

theorem gf_pow_255 {a : Byte} (ha : a ≠ 0) : gf par a ^ 255 = 1 := by
  obtain ⟨i, rfl⟩ := exists_gfPow_eq hok ha
  rw [gf_gfPow, ← pow_mul, Nat.mul_comm, pow_mul, alpha_pow_255 hok, one_pow]

theorem gf_mul_gfInv {a : Byte} (ha : a ≠ 0) : gf par a * gf par (gfInv par a) = 1 := by
  rw [gf_gfInv, ← pow_succ', gf_pow_255 hok ha]

/-- Every nonzero element has an inverse, so the ring has no zero divisors. -/
theorem gfRing_isDomain : IsDomain (GfRing par) := by
  have := gfRing_nontrivial par
  have : NoZeroDivisors (GfRing par) := ⟨fun {x y} hxy => ?_⟩
  · exact NoZeroDivisors.to_isDomain _
  obtain ⟨a, rfl⟩ := (gf_bijective par).surjective x
  by_cases ha : a = 0
  · exact .inl (gf_eq_zero.mpr ha)
  · exact .inr ((IsUnit.of_mul_eq_one _ (gf_mul_gfInv hok ha)).mul_right_eq_zero.mp hxy)

end

/-- Settles O41: `gfPow` and the byte operations run on the listed values. -/
theorem defaultFieldWorkedValues : Obligations.DefaultFieldWorkedValues := by
  refine ⟨fun i v h => ?powers, ?bytes⟩
  case powers =>
    simp only [List.mem_cons, Prod.mk.injEq, List.not_mem_nil, or_false] at h
    rcases h with ⟨rfl, rfl⟩ | ⟨rfl, rfl⟩ | ⟨rfl, rfl⟩ | ⟨rfl, rfl⟩ | ⟨rfl, rfl⟩ | ⟨rfl, rfl⟩ <;> decide +kernel
  case bytes => decide +kernel

/-- Settles O42: the laws are those of the ring `GfRing par`, read back through the injective `gf`. -/
theorem gfMultiplicationIsAField : Obligations.GfMultiplicationIsAField := by
  refine fun par hok => ⟨fun a b c => ⟨?comm, ?assoc, ?distrib, ?one, ?zero⟩,
    fun a b ha => ⟨fun h => ?unique, fun h => ?inverse⟩⟩
  all_goals apply gf_injective par
  case comm => simp [mul_comm]
  case assoc => simp [mul_assoc]
  case distrib => simp [mul_add]
  case one => simp
  case zero => simp
  case unique =>
    have hab : gf par b * gf par a = 1 := by rw [mul_comm, ← gf_gfMul, h, gf_one]
    exact left_inv_eq_right_inv hab (gf_mul_gfInv hok ha)
  case inverse =>
    rw [h, gf_gfMul, gf_mul_gfInv hok ha, gf_one]

end Sys2Proof.Machine
end

section
/-! PROOFS. Blocks as polynomials (40_fec.md §2, rules R132 to R134): evaluation, the generator polynomial, and that
the systematic block of any data is a multiple of it, whatever the field parameters. -/

namespace Sys2Proof.Machine

open Sys2Proof.Config Polynomial

/-! ### Lists of bytes -/

/-- `zipWith` by positions, bytes beyond the end read as 0. -/
theorem getD_zipWith {f : Byte → Byte → Byte} (hf : f 0 0 = 0) {u v : List Byte} (h : u.length = v.length) (j : Nat) :
    (List.zipWith f u v).getD j 0 = f (u.getD j 0) (v.getD j 0) := by
  simp only [List.getD_eq_getElem?_getD, List.getElem?_zipWith]
  by_cases hj : j < u.length
  · simp [hj, show j < v.length from h ▸ hj]
  · simpa [hj, show ¬ j < v.length from h ▸ hj] using hf.symm

theorem eq_of_getD_eq {u v : List Byte} (h : u.length = v.length)
    (hj : ∀ j, j < u.length → u.getD j 0 = v.getD j 0) : u = v := by
  refine List.ext_getElem h fun j h1 h2 => ?_
  simpa [h1, h2] using hj j h1

/-! ### A block as a polynomial (R132) -/

/-- `B(x) = Σ B[j]·x^(n-1-j)` (R132). -/
noncomputable def blockPoly (par : Params) : List Byte → (GfRing par)[X]
  | [] => 0
  | v :: b => C (gf par v) * X ^ b.length + blockPoly par b

section
variable (par : Params)

theorem two_eq_zero : (2 : (GfRing par)[X]) = 0 := by
  have h := congrArg C (gf_add_self par 1)
  rwa [gf_one, one_add_one_eq_two, C_0] at h

theorem blockPoly_append (a b : List Byte) :
    blockPoly par (a ++ b) = blockPoly par a * X ^ b.length + blockPoly par b := by
  induction a with
  | nil => simp [blockPoly]
  | cons v a ih =>
    rw [List.cons_append, blockPoly, blockPoly, ih, List.length_append]
    ring

theorem blockPoly_snoc (b : List Byte) (v : Byte) :
    blockPoly par (b ++ [v]) = blockPoly par b * X + C (gf par v) := by
  simp [blockPoly_append, blockPoly]

theorem blockPoly_xor {a b : List Byte} (h : a.length = b.length) :
    blockPoly par (List.zipWith (· ^^^ ·) a b) = blockPoly par a + blockPoly par b := by
  induction a generalizing b with
  | nil =>
    rw [List.length_eq_zero_iff.mp h.symm]
    simp [blockPoly]
  | cons v a ih =>
    obtain ⟨w, b, rfl⟩ := List.exists_cons_of_length_eq_add_one h.symm
    have hlen : a.length = b.length := by simpa using h
    simp only [List.zipWith_cons_cons, blockPoly, ih hlen, List.length_zipWith, hlen, Nat.min_self, gf_xor, C_add]
    ring

theorem blockPoly_map_gfMul (q : Byte) (b : List Byte) :
    blockPoly par (b.map (gfMul par q)) = C (gf par q) * blockPoly par b := by
  induction b with
  | nil => simp [blockPoly]
  | cons v b ih =>
    simp only [List.map_cons, blockPoly, ih, List.length_map, gf_gfMul, C_mul]
    ring

theorem blockPoly_replicate_zero (n : Nat) : blockPoly par (List.replicate n 0) = 0 := by
  induction n with
  | zero => rfl
  | succ n ih => rw [List.replicate_succ, blockPoly, ih, gf_zero, C_0, zero_mul, add_zero]

/-- Horner's rule. -/
@[simp] theorem gf_polyEval (b : List Byte) (x : Byte) :
    gf par (polyEval par b x) = (blockPoly par b).eval (gf par x) := by
  induction b using List.reverseRecOn with
  | nil => simp [polyEval, blockPoly]
  | append_singleton b v ih =>
    rw [blockPoly_snoc, polyEval, List.foldl_append, ← polyEval]
    simp [ih]

theorem coeff_blockPoly_reverse (b : List Byte) (i : Nat) :
    (blockPoly par b.reverse).coeff i = gf par (b.getD i 0) := by
  induction b generalizing i with
  | nil => simp [blockPoly]
  | cons v b ih =>
    rw [List.reverse_cons, blockPoly_snoc]
    cases i with
    | zero => simp
    | succ i => simp [ih]

theorem degree_blockPoly_lt (b : List Byte) : (blockPoly par b).degree < b.length := by
  refine (degree_lt_iff_coeff_zero _ _).mpr fun i hi => ?_
  have h := coeff_blockPoly_reverse par b.reverse i
  rw [List.reverse_reverse, List.getD_eq_default _ _ (by simpa using hi)] at h
  exact h.trans (gf_zero par)

theorem eval_blockPoly (b : List Byte) (x : GfRing par) :
    (blockPoly par b).eval x = ∑ j ∈ Finset.range b.length, gf par (b.getD j 0) * x ^ (b.length - 1 - j) := by
  induction b with
  | nil => simp [blockPoly]
  | cons v b ih =>
    rw [blockPoly, List.length_cons, Finset.sum_range_succ', eval_add, ih, add_comm]
    congr 1
    · refine Finset.sum_congr rfl fun j _ => ?_
      rw [List.getD_cons_succ, show b.length + 1 - 1 - (j + 1) = b.length - 1 - j by omega]
    · simp

/-! ### The generator polynomial (R133) -/

theorem blockPoly_polyMulRoot (g : List Byte) (r : Byte) :
    blockPoly par (polyMulRoot par g r) = blockPoly par g * (X - C (gf par r)) := by
  rw [polyMulRoot, blockPoly_xor par (by simp), blockPoly_snoc, blockPoly, blockPoly_map_gfMul]
  rw [gf_zero, C_0]
  linear_combination (C (gf par r) * blockPoly par g) * two_eq_zero par

theorem blockPoly_foldl_polyMulRoot (l g : List Byte) :
    blockPoly par (l.foldl (polyMulRoot par) g) = blockPoly par g * (l.map fun r => X - C (gf par r)).prod := by
  induction l generalizing g with
  | nil => simp
  | cons r l ih => rw [List.foldl_cons, ih, blockPoly_polyMulRoot, List.map_cons, List.prod_cons, mul_assoc]

/-- A product of factors `x ⊕ r` is monic. -/
theorem exists_foldl_polyMulRoot_eq (l g : List Byte) :
    ∃ tail, l.foldl (polyMulRoot par) (1 :: g) = 1 :: tail := by
  induction l generalizing g with
  | nil => exact ⟨g, rfl⟩
  | cons r l ih => exact ih _

theorem rsGenerator_eq (p : Nat) :
    rsGenerator par p = ((List.range p).map (rsRoot par)).foldl (polyMulRoot par) [1] := by
  rw [rsGenerator, List.foldl_map]

theorem blockPoly_rsGenerator (p : Nat) :
    blockPoly par (rsGenerator par p) = ((List.range p).map fun i => X - C (gf par (rsRoot par i))).prod := by
  rw [rsGenerator_eq, blockPoly_foldl_polyMulRoot, List.map_map]
  simp [blockPoly, Function.comp_def]

theorem rsGenerator_eq_cons (p : Nat) : rsGenerator par p = 1 :: (rsGenerator par p).tail := by
  obtain ⟨tail, h⟩ := exists_foldl_polyMulRoot_eq par ((List.range p).map (rsRoot par)) []
  rw [rsGenerator_eq, h, List.tail_cons]

/-! ### Codewords (R134) -/

theorem rsIsCodeword_iff {p : Nat} {c : List Byte} :
    rsIsCodeword par p c = true ↔ ∀ i, i < p → (blockPoly par c).eval (gf par (rsRoot par i)) = 0 := by
  simp only [rsIsCodeword, rsSyndromes, List.all_map, List.all_eq_true, List.mem_range, Function.comp_apply, beq_iff_eq,
    ← gf_polyEval, gf_eq_zero]
  rfl

/-- A multiple of the generator polynomial is a codeword. -/
theorem rsIsCodeword_of_dvd {p : Nat} {c : List Byte} (h : blockPoly par (rsGenerator par p) ∣ blockPoly par c) :
    rsIsCodeword par p c = true := by
  refine (rsIsCodeword_iff par).mpr fun i hi => dvd_iff_isRoot.mp (dvd_trans ?_ h)
  rw [blockPoly_rsGenerator]
  exact List.dvd_prod (List.mem_map.mpr ⟨i, by simpa using hi, rfl⟩)

/-- One division step shifts the remainder, takes in the data byte and takes off a multiple of `g`. -/
theorem blockPoly_rsParityStep {g r : List Byte} (hlen : r.length = g.length) (hne : r ≠ []) (d : Byte) :
    blockPoly par (rsParityStep par g r d) = blockPoly par r * X + C (gf par d) * X ^ g.length +
      C (gf par (d ^^^ r.headD 0)) * blockPoly par (1 :: g) := by
  obtain ⟨r0, r, rfl⟩ := List.exists_cons_of_ne_nil hne
  have hg : g.length = r.length + 1 := hlen.symm
  simp only [rsParityStep, List.tail_cons, List.headD_cons]
  rw [blockPoly_xor par (by simp [hg]), blockPoly_snoc, blockPoly_map_gfMul, blockPoly, blockPoly, hg, gf_zero, gf_one,
    C_0, C_1, gf_xor, C_add]
  linear_combination (-(C (gf par d) + C (gf par r0)) * X ^ (r.length + 1)) * two_eq_zero par

/-- The division leaves the remainder of `r·x^n + D·x^p`. -/
theorem dvd_foldl_rsParityStep {g : List Byte} (hg : g ≠ []) (data r : List Byte) (hr : r.length = g.length) :
    blockPoly par (1 :: g) ∣ blockPoly par (data.foldl (rsParityStep par g) r) -
      (blockPoly par r * X ^ data.length + blockPoly par data * X ^ g.length) := by
  induction data generalizing r with
  | nil => simp [blockPoly]
  | cons d data ih =>
    have hpos := List.length_pos_iff.mpr hg
    have hstep := blockPoly_rsParityStep par hr (List.length_pos_iff.mp (hr ▸ hpos)) d
    obtain ⟨k, hk⟩ := ih _ (length_rsParityStep par g r d hr hg)
    refine ⟨k + C (gf par (d ^^^ r.headD 0)) * X ^ data.length, ?_⟩
    rw [hstep] at hk
    rw [List.foldl_cons, blockPoly.eq_2 par d data, List.length_cons]
    linear_combination hk

/-- The systematic block of any data is a codeword, whatever the field parameters (R134). -/
theorem rsIsCodeword_rsEncode {p : Nat} (hp : 1 ≤ p) (d : List Byte) :
    rsIsCodeword par p (rsEncode par p d) = true := by
  have hlen : (rsGenerator par p).tail.length = p := by simp
  have hdvd := dvd_foldl_rsParityStep par (g := (rsGenerator par p).tail) (List.length_pos_iff.mp (by omega)) d
    (List.replicate p 0) (by simp)
  rw [← rsGenerator_eq_cons, ← rsParity, blockPoly_replicate_zero, hlen] at hdvd
  refine rsIsCodeword_of_dvd par ?_
  obtain ⟨k, hk⟩ := hdvd
  refine ⟨k, ?_⟩
  rw [rsEncode, blockPoly_append, length_rsParity]
  linear_combination hk + (blockPoly par d * X ^ p) * two_eq_zero par

end

end Sys2Proof.Machine
end

section
/-! PROOFS. The distance of the codes (40_fec.md rules R134 and R136). A block `e` acts on polynomials by
`N ↦ Σ_j e[j]·x_j^FCR·N(x_j)` over the locators `x_j` of its bytes; its syndromes are the values at `1, x, x², …`. If
few bytes of `e` are nonzero, a polynomial of low degree that vanishes at all their locators but one singles that byte
out. -/

namespace Sys2Proof.Machine

open Sys2Proof.Config Polynomial

/-! ### Differences of blocks -/

/-- The difference of two blocks of equal length, byte by byte. -/
def xorBlocks (a b : List Byte) : List Byte := List.zipWith (· ^^^ ·) a b

/-- The positions of the nonzero bytes. -/
def nonzeroPositions (e : List Byte) : Finset Nat := (Finset.range e.length).filter fun j => e.getD j 0 ≠ 0

theorem mem_nonzeroPositions {e : List Byte} {j : Nat} : j ∈ nonzeroPositions e ↔ j < e.length ∧ e.getD j 0 ≠ 0 := by
  rw [nonzeroPositions, Finset.mem_filter, Finset.mem_range]

theorem length_xorBlocks {a b : List Byte} (h : a.length = b.length) : (xorBlocks a b).length = a.length := by
  simp [xorBlocks, h]

theorem getD_xorBlocks {a b : List Byte} (h : a.length = b.length) (j : Nat) :
    (xorBlocks a b).getD j 0 = a.getD j 0 ^^^ b.getD j 0 := getD_zipWith (by decide) h j

theorem mem_nonzeroPositions_xorBlocks {a b : List Byte} (h : a.length = b.length) {j : Nat} :
    j ∈ nonzeroPositions (xorBlocks a b) ↔ j < a.length ∧ a.getD j 0 ≠ b.getD j 0 := by
  rw [mem_nonzeroPositions, length_xorBlocks h, getD_xorBlocks h]
  exact and_congr_right' BitVec.xor_eq_zero_iff.not

theorem card_nonzeroPositions_cons (v : Byte) (e : List Byte) :
    (nonzeroPositions (v :: e)).card = (nonzeroPositions e).card + if v ≠ 0 then 1 else 0 := by
  simp only [nonzeroPositions, Finset.card_filter, List.length_cons, Finset.sum_range_succ', List.getD_cons_succ,
    List.getD_cons_zero]

/-- The Hamming distance counts the positions that differ (R136). -/
theorem rsDist_eq_card {a b : List Byte} (h : a.length = b.length) :
    rsDist a b = (nonzeroPositions (xorBlocks a b)).card := by
  induction a generalizing b with
  | nil => rfl
  | cons v a ih =>
    obtain ⟨w, b, rfl⟩ := List.exists_cons_of_length_eq_add_one h.symm
    rw [xorBlocks, List.zipWith_cons_cons, card_nonzeroPositions_cons, ← xorBlocks, ← ih (by simpa using h), rsDist,
      List.zip_cons_cons, List.filter_cons]
    by_cases hne : v = w
    · simp [hne, rsDist]
    · simp [hne, rsDist]

theorem eq_of_nonzeroPositions_eq_empty {a b : List Byte} (h : a.length = b.length)
    (hempty : nonzeroPositions (xorBlocks a b) = ∅) : a = b := by
  refine eq_of_getD_eq h fun j hj => by_contra fun hne => ?_
  have hmem := (mem_nonzeroPositions_xorBlocks h).mpr ⟨hj, hne⟩
  simp [hempty] at hmem

theorem rsDist_triangle {r a b : List Byte} (ha : r.length = a.length) (hb : r.length = b.length) :
    rsDist a b ≤ rsDist r a + rsDist r b := by
  have hab : a.length = b.length := ha.symm.trans hb
  rw [rsDist_eq_card hab, rsDist_eq_card ha, rsDist_eq_card hb]
  refine (Finset.card_le_card fun j hj => ?_).trans (Finset.card_union_le _ _)
  simp only [Finset.mem_union, mem_nonzeroPositions_xorBlocks hab, mem_nonzeroPositions_xorBlocks ha,
    mem_nonzeroPositions_xorBlocks hb] at hj ⊢
  grind

/-! ### Moments -/

/-- The locator `α^(n-1-j)` of byte `j` of an `n`-byte block (R132). -/
noncomputable def locator (par : Params) (n j : Nat) : GfRing par := gf par par.rsAlpha ^ (n - 1 - j)

/-- `N ↦ Σ_j e[j]·x_j^FCR·N(x_j)`. -/
noncomputable def blockMoments (par : Params) (e : List Byte) : (GfRing par)[X] →ₗ[GfRing par] GfRing par :=
  ∑ j ∈ Finset.range e.length,
    (gf par (e.getD j 0) * locator par e.length j ^ par.rsFcr) • leval (locator par e.length j)

section
variable (par : Params)

theorem blockMoments_apply (e : List Byte) (N : (GfRing par)[X]) :
    blockMoments par e N = ∑ j ∈ Finset.range e.length,
      gf par (e.getD j 0) * locator par e.length j ^ par.rsFcr * N.eval (locator par e.length j) := by
  simp [blockMoments]

theorem blockMoments_xorBlocks {a b : List Byte} (h : a.length = b.length) (N : (GfRing par)[X]) :
    blockMoments par (xorBlocks a b) N = blockMoments par a N + blockMoments par b N := by
  rw [blockMoments_apply, blockMoments_apply, blockMoments_apply, length_xorBlocks h, ← h, ← Finset.sum_add_distrib]
  refine Finset.sum_congr rfl fun j _ => ?_
  rw [getD_xorBlocks h, gf_xor]
  ring

/-- The syndromes are the moments of the powers of `x` (R134). -/
theorem blockMoments_X_pow (e : List Byte) (i : Nat) :
    blockMoments par e (X ^ i) = (blockPoly par e).eval (gf par (rsRoot par i)) := by
  rw [blockMoments_apply, eval_blockPoly]
  refine Finset.sum_congr rfl fun j _ => ?_
  rw [eval_pow, eval_X, rsRoot, gf_gfPow, locator, mul_assoc, ← pow_add, ← pow_mul, ← pow_mul, Nat.mul_comm]

/-- All the moments of a codeword up to degree `p - 1` are zero. -/
theorem blockMoments_codeword {p : Nat} {c : List Byte} (h : rsIsCodeword par p c = true) {i : Nat} (hi : i < p) :
    blockMoments par c (X ^ i) = 0 := (blockMoments_X_pow par c i).trans ((rsIsCodeword_iff par).mp h i hi)

/-- The term of byte `j` alone: of a polynomial that vanishes at the locators of the other nonzero bytes. -/
theorem blockMoments_eq_term {e : List Byte} {N : (GfRing par)[X]} {j : Nat} (hj : j < e.length)
    (hN : ∀ i ∈ nonzeroPositions e, i ≠ j → N.eval (locator par e.length i) = 0) :
    blockMoments par e N =
      gf par (e.getD j 0) * locator par e.length j ^ par.rsFcr * N.eval (locator par e.length j) := by
  rw [blockMoments_apply]
  refine Finset.sum_eq_single_of_mem j (Finset.mem_range.mpr hj) fun i hi hne => ?_
  by_cases h0 : e.getD i 0 = 0
  · rw [h0, gf_zero, zero_mul, zero_mul]
  · rw [hN i (mem_nonzeroPositions.mpr ⟨Finset.mem_range.mp hi, h0⟩) hne, mul_zero]

/-- A linear map that vanishes at `Q, x·Q, …, x^(d-1)·Q` vanishes at every `N·Q` with `N` of degree below `d`. -/
theorem map_mul_eq_zero_of_degree_lt {R : Type*} [CommRing R] {L : R[X] →ₗ[R] R} {Q : R[X]} {d : Nat}
    (h : ∀ i, i < d → L (X ^ i * Q) = 0) {N : R[X]} (hN : N.natDegree < d) : L (N * Q) = 0 := by
  rw [N.as_sum_range' d hN, Finset.sum_mul, map_sum]
  refine Finset.sum_eq_zero fun i hi => ?_
  rw [← C_mul_X_pow_eq_monomial, mul_assoc, ← smul_eq_C_mul, map_smul, h i (Finset.mem_range.mp hi), smul_zero]

/-- The product of `x ⊕ x_i` over the nonzero bytes but byte `j`. -/
noncomputable def otherLocatorsPoly (e : List Byte) (j : Nat) : (GfRing par)[X] :=
  ∏ i ∈ (nonzeroPositions e).erase j, (X - C (locator par e.length i))

theorem natDegree_otherLocatorsPoly {e : List Byte} {j : Nat} (hj : j ∈ nonzeroPositions e) :
    (otherLocatorsPoly par e j).natDegree < (nonzeroPositions e).card := by
  have := gfRing_nontrivial par
  rw [otherLocatorsPoly, natDegree_finsetProd_X_sub_C_eq_card, Finset.card_erase_of_mem hj]
  exact Nat.sub_one_lt (Finset.card_ne_zero_of_mem hj)

theorem eval_otherLocatorsPoly {e : List Byte} {i j : Nat} (hi : i ∈ nonzeroPositions e) (hij : i ≠ j) :
    (otherLocatorsPoly par e j).eval (locator par e.length i) = 0 := by
  rw [otherLocatorsPoly, eval_prod, Finset.prod_eq_zero (Finset.mem_erase.mpr ⟨hij, hi⟩) (by simp)]

end

section
variable {par : Params} (hok : rsFieldOk par = true)
include hok

/-- The bytes of a block of at most 255 bytes have distinct locators. -/
theorem locator_inj {n i j : Nat} (hn : n ≤ 255) (hi : i < n) (hj : j < n)
    (h : locator par n i = locator par n j) : i = j := by
  have := alpha_pow_inj hok (by omega) (by omega) h
  omega

theorem locator_ne_zero (n j : Nat) : locator par n j ≠ 0 := by
  rw [locator, ← gf_gfPow, Ne, gf_eq_zero]
  exact gfPow_alpha_ne_zero hok _

theorem eval_otherLocatorsPoly_self {e : List Byte} (hn : e.length ≤ 255) {j : Nat} (hj : j ∈ nonzeroPositions e) :
    (otherLocatorsPoly par e j).eval (locator par e.length j) ≠ 0 := by
  have := gfRing_isDomain hok
  rw [otherLocatorsPoly, eval_prod, Finset.prod_ne_zero_iff]
  intro i hi h0
  obtain ⟨hij, hi⟩ := Finset.mem_erase.mp hi
  rw [eval_sub, eval_X, eval_C, sub_eq_zero] at h0
  exact hij (locator_inj hok hn (mem_nonzeroPositions.mp hi).1 (mem_nonzeroPositions.mp hj).1 h0.symm)

/-- At most `d` nonzero bytes, and `d` moments of multiples of `Q` that vanish: `Q` is zero at the locator of each
nonzero byte. -/
theorem eval_locator_eq_zero {e : List Byte} (hn : e.length ≤ 255) {d : Nat} (hd : (nonzeroPositions e).card ≤ d)
    {Q : (GfRing par)[X]} (hQ : ∀ i, i < d → blockMoments par e (X ^ i * Q) = 0) {j : Nat}
    (hj : j ∈ nonzeroPositions e) : Q.eval (locator par e.length j) = 0 := by
  have := gfRing_isDomain hok
  obtain ⟨hlt, hne⟩ := mem_nonzeroPositions.mp hj
  have hzero := map_mul_eq_zero_of_degree_lt hQ ((natDegree_otherLocatorsPoly par hj).trans_le hd)
  rw [blockMoments_eq_term par hlt fun i hi hij => by rw [eval_mul, eval_otherLocatorsPoly par hi hij, zero_mul],
    eval_mul] at hzero
  have hbyte : gf par (e.getD j 0) ≠ 0 := fun h => hne (gf_eq_zero.mp h)
  have hpow := pow_ne_zero par.rsFcr (locator_ne_zero hok e.length j)
  exact (mul_eq_zero.mp ((mul_eq_zero.mp hzero).resolve_left (mul_ne_zero hbyte hpow))).resolve_left
    (eval_otherLocatorsPoly_self hok hn hj)

/-! ### Distance (R136) -/

/-- Codewords that differ in at most `p` positions are equal. -/
theorem eq_of_codewords_of_rsDist_le {p : Nat} {a b : List Byte} (hlen : a.length = b.length) (hn : a.length ≤ 255)
    (ha : rsIsCodeword par p a = true) (hb : rsIsCodeword par p b = true) (hd : rsDist a b ≤ p) : a = b := by
  have := gfRing_nontrivial par
  refine eq_of_nonzeroPositions_eq_empty hlen (Finset.eq_empty_of_forall_notMem fun j hj => ?_)
  have hQ : ∀ i, i < p → blockMoments par (xorBlocks a b) (X ^ i * 1) = 0 := fun i hi => by
    rw [mul_one, blockMoments_xorBlocks par hlen, blockMoments_codeword par ha hi, blockMoments_codeword par hb hi,
      add_zero]
  have h1 := eval_locator_eq_zero hok (by rwa [length_xorBlocks hlen]) (rsDist_eq_card hlen ▸ hd) hQ hj
  rw [eval_one] at h1
  exact one_ne_zero h1

/-- At most one codeword is within `p / 2` of a block. -/
theorem eq_of_codewords_near {p : Nat} {r a b : List Byte} (hra : r.length = a.length) (hrb : r.length = b.length)
    (hn : r.length ≤ 255) (ha : rsIsCodeword par p a = true) (hb : rsIsCodeword par p b = true)
    (hda : rsDist r a ≤ p / 2) (hdb : rsDist r b ≤ p / 2) : a = b := by
  have htri := rsDist_triangle hra hrb
  exact eq_of_codewords_of_rsDist_le hok (hra.symm.trans hrb) (hra ▸ hn) ha hb (by omega)

end

/-- Settles O44, by `eq_of_codewords_of_rsDist_le`. -/
theorem codewordsDifferInMoreThanParityPositions : Obligations.CodewordsDifferInMoreThanParityPositions := by
  refine fun par p n hok _ _ hn => ⟨fun a b la lb ha hb hne => ?_, fun r a b lr la lb ha hb => ?_⟩
  · by_contra hlt
    exact hne (eq_of_codewords_of_rsDist_le hok (la.trans lb.symm) (la ▸ hn) ha hb (by omega))
  · exact eq_of_codewords_near hok (lr.trans la.symm) (lr.trans lb.symm) (lr ▸ hn) ha hb

/-- Blocks that begin with the same data differ in parity bytes only. -/
theorem rsDist_le_of_take_eq {p k : Nat} {a b : List Byte} (ha : a.length = k + p) (hb : b.length = k + p)
    (h : a.take k = b.take k) : rsDist a b ≤ p := by
  have hlen := ha.trans hb.symm
  rw [rsDist_eq_card hlen]
  refine (Finset.card_le_card (t := Finset.Ico k (k + p)) fun j hj => ?_).trans (by simp)
  obtain ⟨hlt, hne⟩ := (mem_nonzeroPositions_xorBlocks hlen).mp hj
  refine Finset.mem_Ico.mpr ⟨by_contra fun hk => hne ?_, ha ▸ hlt⟩
  have hj := congrArg (·[j]?) h
  rw [List.getElem?_take_of_lt (by omega), List.getElem?_take_of_lt (by omega)] at hj
  rw [List.getD_eq_getElem?_getD, List.getD_eq_getElem?_getD, hj]

/-- Settles O43: `rsIsCodeword_rsEncode`, and two codewords with the same data are too close to differ. -/
theorem systematicCodewordIsUnique : Obligations.SystematicCodewordIsUnique := by
  intro par p d hok hp hn
  have hp1 : 1 ≤ p := by
    simp only [List.mem_cons, List.not_mem_nil, or_false] at hp
    omega
  have htake : (rsEncode par p d).take d.length = d := List.take_left
  have hcode := rsIsCodeword_rsEncode par hp1 d
  refine ⟨length_rsEncode par p d, htake, hcode, fun c hlen hdata hc => ?_⟩
  exact eq_of_codewords_of_rsDist_le hok (hlen.trans (length_rsEncode par p d).symm) (hlen ▸ hn) hc hcode
    (rsDist_le_of_take_eq hlen (length_rsEncode par p d) (hdata.trans htake.symm))

end Sys2Proof.Machine
end

section
/-! PROOFS. The key equations (40_fec.md §3): `rsLocatorPoly` answers a nonzero vector that every key equation kills.
Each elimination of `rsRestrict` drops at most one vector, and the vectors stay in echelon form, so one of `t + 1` is
left after `t` equations and is not zero. -/

namespace Sys2Proof.Machine

open Sys2Proof.Config Polynomial

/-! ### The dot product -/

section
variable (par : Params)

theorem gf_foldl_xor (l : List Byte) (a : Byte) : gf par (l.foldl (· ^^^ ·) a) = gf par a + (l.map (gf par)).sum := by
  induction l generalizing a with
  | nil => simp
  | cons v l ih => rw [List.foldl_cons, ih, gf_xor, List.map_cons, List.sum_cons, add_assoc]

@[simp] theorem gfDot_nil_right (u : List Byte) : gfDot par u [] = 0 := by simp [gfDot]

@[simp] theorem gfDot_nil_left (v : List Byte) : gfDot par [] v = 0 := rfl

theorem gf_gfDot_cons (a b : Byte) (u v : List Byte) :
    gf par (gfDot par (a :: u) (b :: v)) = gf par a * gf par b + gf par (gfDot par u v) := by
  simp [gfDot, gf_foldl_xor]

theorem gfDot_comm (u v : List Byte) : gfDot par u v = gfDot par v u := by
  have h : gfMul par = fun a b => gfMul par b a := by
    funext a b
    exact gf_injective par (by rw [gf_gfMul, gf_gfMul, mul_comm])
  rw [gfDot, List.zipWith_comm, ← h, ← gfDot]

/-- The combination `p ⊗ u ⊕ q ⊗ v` of two vectors. -/
def gfCombine (p q : Byte) (u v : List Byte) : List Byte :=
  List.zipWith (fun a b => gfMul par p a ^^^ gfMul par q b) u v

theorem length_gfCombine (p q : Byte) {u v : List Byte} (h : u.length = v.length) :
    (gfCombine par p q u v).length = v.length := by simp [gfCombine, h]

theorem gf_getD_gfCombine (p q : Byte) {u v : List Byte} (h : u.length = v.length) (j : Nat) :
    gf par ((gfCombine par p q u v).getD j 0) = gf par p * gf par (u.getD j 0) + gf par q * gf par (v.getD j 0) := by
  rw [gfCombine, getD_zipWith (gf_injective par (by simp)) h, gf_xor, gf_gfMul, gf_gfMul]

theorem gf_gfDot_gfCombine (p q : Byte) (row : List Byte) {u v : List Byte} (h : u.length = v.length) :
    gf par (gfDot par row (gfCombine par p q u v)) =
      gf par p * gf par (gfDot par row u) + gf par q * gf par (gfDot par row v) := by
  induction row generalizing u v with
  | nil => simp
  | cons a row ih =>
    cases u with
    | nil =>
      rw [List.length_eq_zero_iff.mp h.symm]
      simp [gfCombine]
    | cons x u =>
      obtain ⟨y, v, rfl⟩ := List.exists_cons_of_length_eq_add_one h.symm
      rw [gfCombine, List.zipWith_cons_cons, ← gfCombine, gf_gfDot_cons, ih (by simpa using h), gf_gfDot_cons,
        gf_gfDot_cons, gf_xor, gf_gfMul, gf_gfMul]
      ring

/-! ### Elimination -/

theorem rsRestrict_cons_of_zero {row v : List Byte} (h : gfDot par row v = 0) (rest : List (List Byte)) :
    rsRestrict par row (v :: rest) = v :: rsRestrict par row rest := if_pos h

theorem rsRestrict_cons_of_pivot {row v : List Byte} (h : gfDot par row v ≠ 0) (rest : List (List Byte)) :
    rsRestrict par row (v :: rest) =
      rest.map fun w => gfCombine par (gfDot par row v) (gfDot par row w) w v := if_neg h

theorem length_le_rsRestrict (row : List Byte) (bs : List (List Byte)) :
    bs.length ≤ (rsRestrict par row bs).length + 1 := by
  induction bs with
  | nil => exact Nat.zero_le _
  | cons v rest ih =>
    by_cases h : gfDot par row v = 0
    · rw [rsRestrict_cons_of_zero par h]
      exact Nat.succ_le_succ ih
    · rw [rsRestrict_cons_of_pivot par h, List.length_map, List.length_cons]

/-- A vector left by the elimination was on the hyperplane, or was brought there with the pivot. -/
theorem mem_rsRestrict {row w : List Byte} {bs : List (List Byte)} (h : w ∈ rsRestrict par row bs) :
    (w ∈ bs ∧ gfDot par row w = 0) ∨
      ∃ u ∈ bs, ∃ v ∈ bs, w = gfCombine par (gfDot par row v) (gfDot par row u) u v := by
  induction bs with
  | nil => cases h
  | cons v rest ih =>
    by_cases hv : gfDot par row v = 0
    · rw [rsRestrict_cons_of_zero par hv] at h
      rcases List.mem_cons.mp h with rfl | h
      · exact .inl ⟨List.mem_cons_self, hv⟩
      · rcases ih h with ⟨hw, hdot⟩ | ⟨u, hu, x, hx, rfl⟩
        · exact .inl ⟨List.mem_cons_of_mem _ hw, hdot⟩
        · exact .inr ⟨u, List.mem_cons_of_mem _ hu, x, List.mem_cons_of_mem _ hx, rfl⟩
    · rw [rsRestrict_cons_of_pivot par hv] at h
      obtain ⟨u, hu, rfl⟩ := List.mem_map.mp h
      exact .inr ⟨u, List.mem_cons_of_mem _ hu, v, List.mem_cons_self, rfl⟩

end

/-- Each vector has a position at which it is not zero and all vectors before it are. -/
inductive Echelon : List (List Byte) → List Nat → Prop where
  | nil : Echelon [] []
  | cons {v : List Byte} {q : Nat} {bs : List (List Byte)} {qs : List Nat} (hv : v.getD q 0 ≠ 0)
      (hqs : ∀ q' ∈ qs, v.getD q' 0 = 0) (h : Echelon bs qs) : Echelon (v :: bs) (q :: qs)

/-- The unit vectors, each at its own position. -/
theorem echelon_units (m : Nat) {qs : List Nat} (hlt : ∀ q ∈ qs, q < m) (hnodup : qs.Nodup) :
    Echelon (qs.map fun k => (List.range m).map fun j => if j = k then 1 else 0) qs := by
  induction qs with
  | nil => exact .nil
  | cons q qs ih =>
    obtain ⟨hq, hnodup⟩ := List.nodup_cons.mp hnodup
    have hget : ∀ j ∈ q :: qs, ((List.range m).map fun j => if j = q then (1 : Byte) else 0).getD j 0 =
        if j = q then 1 else 0 := fun j hj => by simp [hlt j hj]
    refine .cons ?_ (fun q' hq' => ?_) (ih (fun q' hq' => hlt q' (List.mem_cons_of_mem _ hq')) hnodup)
    · rw [hget q List.mem_cons_self, if_pos rfl]
      decide
    · rw [hget q' (List.mem_cons_of_mem _ hq'), if_neg]
      rintro rfl
      exact hq hq'

/-- What the eliminations keep, with the key equations `rows` so far, of vectors of length `m`. -/
structure KeyBasis (par : Params) (m : Nat) (rows bs : List (List Byte)) : Prop where
  length : ∀ v ∈ bs, v.length = m
  kills : ∀ row ∈ rows, ∀ v ∈ bs, gfDot par row v = 0
  echelon : ∃ qs, Echelon bs qs
  size : m ≤ bs.length + rows.length

theorem keyBasis_units (par : Params) (m : Nat) : KeyBasis par m [] (rsUnitBasis m) where
  length := by simp [rsUnitBasis]
  kills := fun _ h => by cases h
  echelon := ⟨_, echelon_units m (fun _ => List.mem_range.mp) List.nodup_range⟩
  size := by simp [rsUnitBasis]

section
variable {par : Params} (hok : rsFieldOk par = true)
include hok

/-- Adding multiples of a pivot that is zero at the other vectors' positions keeps the echelon form. -/
theorem Echelon.map_gfCombine {f : List Byte → Byte} {p : Byte} (hp : p ≠ 0) {v : List Byte} {bs : List (List Byte)}
    {qs : List Nat} (h : Echelon bs qs) (hlen : ∀ u ∈ bs, u.length = v.length) (hv : ∀ q ∈ qs, v.getD q 0 = 0) :
    Echelon (bs.map fun u => gfCombine par p (f u) u v) qs := by
  have := gfRing_isDomain hok
  induction h with
  | nil => exact .nil
  | @cons u q bs qs hu hqs h ih =>
    have hlenu := hlen u List.mem_cons_self
    have hentry : ∀ q' ∈ q :: qs,
        gf par ((gfCombine par p (f u) u v).getD q' 0) = gf par p * gf par (u.getD q' 0) := fun q' hq' => by
      rw [gf_getD_gfCombine par p (f u) hlenu, hv q' hq', gf_zero, mul_zero, add_zero]
    refine .cons (fun h0 => ?_) (fun q' hq' => ?_)
      (ih (fun u hu => hlen u (List.mem_cons_of_mem _ hu)) fun q' hq' => hv q' (List.mem_cons_of_mem _ hq'))
    · have hprod := hentry q List.mem_cons_self
      rw [h0, gf_zero] at hprod
      rcases mul_eq_zero.mp hprod.symm with h0 | h0
      · exact hp (gf_eq_zero.mp h0)
      · exact hu (gf_eq_zero.mp h0)
    · refine (gf_eq_zero (par := par)).mp ?_
      rw [hentry q' (List.mem_cons_of_mem _ hq'), hqs q' hq', gf_zero, mul_zero]

theorem Echelon.restrict {m : Nat} (row : List Byte) {bs : List (List Byte)} {qs : List Nat} (h : Echelon bs qs)
    (hlen : ∀ v ∈ bs, v.length = m) : ∃ qs' ⊆ qs, Echelon (rsRestrict par row bs) qs' := by
  induction h with
  | nil => exact ⟨[], List.Subset.refl _, .nil⟩
  | @cons v q bs qs hv hqs h ih =>
    have hlenbs : ∀ u ∈ bs, u.length = m := fun u hu => hlen u (List.mem_cons_of_mem _ hu)
    by_cases hrow : gfDot par row v = 0
    · obtain ⟨qs', hsub, hech⟩ := ih hlenbs
      rw [rsRestrict_cons_of_zero par hrow]
      exact ⟨q :: qs', List.cons_subset_cons q hsub, .cons hv (fun q' hq' => hqs q' (hsub hq')) hech⟩
    · rw [rsRestrict_cons_of_pivot par hrow]
      have hlenv := hlen v List.mem_cons_self
      exact ⟨qs, List.subset_cons_self q qs,
        h.map_gfCombine hok hrow (fun u hu => (hlenbs u hu).trans hlenv.symm) hqs⟩

/-- One elimination adds its key equation. -/
theorem KeyBasis.restrict {m : Nat} {rows bs : List (List Byte)} (h : KeyBasis par m rows bs) (row : List Byte) :
    KeyBasis par m (row :: rows) (rsRestrict par row bs) := by
  obtain ⟨hlen, hkills, ⟨qs, hech⟩, hsize⟩ := h
  obtain ⟨qs', -, hech'⟩ := hech.restrict hok row hlen
  have hlen2 : ∀ u ∈ bs, ∀ v ∈ bs, u.length = v.length := fun u hu v hv => (hlen u hu).trans (hlen v hv).symm
  refine ⟨fun w hw => ?_, fun r hr w hw => ?_, ⟨qs', hech'⟩, ?_⟩
  · rcases mem_rsRestrict par hw with ⟨hw, -⟩ | ⟨u, hu, v, hv, rfl⟩
    · exact hlen w hw
    · rw [length_gfCombine par _ _ (hlen2 u hu v hv), hlen v hv]
  · rcases mem_rsRestrict par hw with ⟨hw, hdot⟩ | ⟨u, hu, v, hv, rfl⟩
    · rcases List.mem_cons.mp hr with rfl | hr
      · exact hdot
      · exact hkills r hr w hw
    · refine (gf_eq_zero (par := par)).mp ?_
      rw [gf_gfDot_gfCombine par _ _ r (hlen2 u hu v hv)]
      rcases List.mem_cons.mp hr with rfl | hr
      · rw [← gf_gfMul, mul_comm, ← gf_gfMul, gf_add_self]
      · rw [hkills r hr u hu, hkills r hr v hv, gf_zero, mul_zero, mul_zero, add_zero]
  · have := length_le_rsRestrict par row bs
    rw [List.length_cons]
    omega

theorem KeyBasis.foldl_restrict {m : Nat} (rows : List (List Byte)) {done bs : List (List Byte)}
    (h : KeyBasis par m done bs) :
    KeyBasis par m (rows.reverse ++ done) (rows.foldl (fun basis row => rsRestrict par row basis) bs) := by
  induction rows generalizing done bs with
  | nil => exact h
  | cons row rows ih =>
    rw [List.reverse_cons, List.append_assoc]
    exact ih (h.restrict hok row)

/-- The vector of `rsLocatorPoly` solves the key equations and is not zero. -/
theorem rsLocatorPoly_spec (t : Nat) (syn : List Byte) :
    (rsLocatorPoly par t syn).length = t + 1 ∧ (∃ q, (rsLocatorPoly par t syn).getD q 0 ≠ 0) ∧
      ∀ i, i < t → gfDot par ((syn.drop i).take (t + 1)) (rsLocatorPoly par t syn) = 0 := by
  have hbasis := (keyBasis_units par (t + 1)).foldl_restrict hok
    ((List.range t).map fun i => (syn.drop i).take (t + 1))
  rw [rsLocatorPoly]
  revert hbasis
  generalize List.foldl _ _ _ = bs
  rintro ⟨hlen, hkills, ⟨qs, hech⟩, hsize⟩
  cases hech with
  | nil => simp at hsize
  | @cons v q bs qs hv hqs hech =>
    refine ⟨hlen v List.mem_cons_self, ⟨q, hv⟩, fun i hi => hkills _ ?_ v List.mem_cons_self⟩
    rw [List.append_nil, List.mem_reverse]
    exact List.mem_map.mpr ⟨i, List.mem_range.mpr hi, rfl⟩

end

end Sys2Proof.Machine
end

section
/-! PROOFS. The decoder (40_fec.md §3, rule R140). With at most `t` wrong bytes the vector of `rsLocatorPoly` vanishes
at the locator of every wrong byte, `rsErrorValue` answers the byte's error, and `rsCorrect` the codeword. -/

namespace Sys2Proof.Machine

open Sys2Proof.Config Polynomial

section
variable (par : Params)

/-! ### Syndromes as moments (R134) -/

/-- `syn` lists the moments of `e` of degrees 0 to `p - 1`. -/
def IsMomentList (p : Nat) (e syn : List Byte) : Prop :=
  ∀ k, k < p → ∃ y, syn[k]? = some y ∧ gf par y = blockMoments par e (X ^ k)

/-- The syndromes of a received block are the moments of its errors. -/
theorem isMomentList_rsSyndromes {p : Nat} {b c : List Byte} (hlen : b.length = c.length)
    (hc : rsIsCodeword par p c = true) : IsMomentList par p (xorBlocks b c) (rsSyndromes par p b) := by
  refine fun k hk => ⟨polyEval par b (rsRoot par k), by simp [rsSyndromes, hk], ?_⟩
  rw [blockMoments_xorBlocks par hlen, blockMoments_codeword par hc hk, add_zero, blockMoments_X_pow, gf_polyEval]

/-- A dot product with consecutive moments is the moment of a polynomial. -/
theorem gf_gfDot_moments (e row u : List Byte) (i : Nat)
    (h : ∀ k, k < u.length → ∃ y, row[k]? = some y ∧ gf par y = blockMoments par e (X ^ (i + k))) :
    gf par (gfDot par row u) = blockMoments par e (X ^ i * blockPoly par u.reverse) := by
  induction u generalizing row i with
  | nil => simp [blockPoly]
  | cons a u ih =>
    obtain ⟨y, hy, hmoment⟩ := h 0 (by simp)
    cases row with
    | nil => cases hy
    | cons y' row =>
      cases hy
      have hrest := ih row (i + 1) fun k hk => by
        obtain ⟨z, hz, hmoment⟩ := h (k + 1) (by simpa using hk)
        exact ⟨z, hz, by rw [hmoment, Nat.add_right_comm, Nat.add_assoc]⟩
      have hsplit : X ^ i * blockPoly par (a :: u).reverse =
          gf par a • X ^ i + X ^ (i + 1) * blockPoly par u.reverse := by
        rw [List.reverse_cons, blockPoly_snoc, smul_eq_C_mul]
        ring
      rw [gf_gfDot_cons, hrest, hmoment, hsplit, map_add, map_smul, smul_eq_mul, mul_comm (gf par a), Nat.add_zero]

/-! ### Locators -/

theorem rsLocators_eq {n : Nat} (hn : 1 ≤ n) :
    rsLocators par n = (List.range n).map fun j => gfPow par par.rsAlpha (n - 1 - j) := by
  obtain ⟨m, rfl⟩ := Nat.exists_eq_add_of_le' hn
  have hpowers : gfPowers par par.rsAlpha m 1 = (List.range m).map fun i => gfPow par par.rsAlpha (0 + 1 + i) :=
    gfPowers_gfPow par par.rsAlpha m 0
  rw [rsLocators, Nat.add_sub_cancel, hpowers, List.range_succ, List.map_append, ← List.map_reverse]
  congr 1
  · refine List.ext_getElem (by simp) fun j hj _ => ?_
    simp only [List.length_map, List.length_reverse, List.length_range] at hj
    simp only [List.getElem_map, List.getElem_reverse, List.getElem_range, List.length_range]
    congr 1
    omega
  · simp [gfPow]

/-- The locators at which `rsCorrect` takes an error off. -/
def errorLocators (p : Nat) (b : List Byte) : List Byte :=
  rsErrorLocators par b.length (rsLocatorPoly par (p / 2) (rsSyndromes par p b))

/-- The correction byte by byte. -/
theorem getD_rsCorrect (p : Nat) {b : List Byte} {j : Nat} (hj : j < b.length) :
    (rsCorrect par p b).getD j 0 =
      if gfPow par par.rsAlpha (b.length - 1 - j) ∈ errorLocators par p b then
        b.getD j 0 ^^^ rsErrorValue par (rsSyndromes par p b) (errorLocators par p b)
          (gfPow par par.rsAlpha (b.length - 1 - j))
      else b.getD j 0 := by
  rw [rsCorrect, ← errorLocators, rsLocators_eq par (by omega)]
  simp [hj]

/-- The polynomial of the error value at `x`: the product of `z ⊕ y` over the other error locators. -/
def errorCofactor (xs : List Byte) (x : Byte) : List Byte := (xs.filter (· != x)).foldl (polyMulRoot par) [1]

theorem rsErrorValue_eq (syn xs : List Byte) (x : Byte) :
    rsErrorValue par syn xs x = gfMul par (gfDot par (errorCofactor par xs x).reverse syn)
      (gfInv par (gfMul par (gfPow par x par.rsFcr) (polyEval par (errorCofactor par xs x) x))) := rfl

theorem blockPoly_errorCofactor (xs : List Byte) (x : Byte) :
    blockPoly par (errorCofactor par xs x) = ((xs.filter (· != x)).map fun y => X - C (gf par y)).prod := by
  rw [errorCofactor, blockPoly_foldl_polyMulRoot]
  simp [blockPoly]

theorem length_foldl_polyMulRoot (l g : List Byte) : (l.foldl (polyMulRoot par) g).length = g.length + l.length := by
  induction l generalizing g with
  | nil => rfl
  | cons r l ih => rw [List.foldl_cons, ih, length_polyMulRoot, List.length_cons, Nat.add_right_comm, Nat.add_assoc]

theorem length_errorCofactor_le (xs : List Byte) (x : Byte) : (errorCofactor par xs x).length ≤ xs.length + 1 := by
  have := List.length_filter_le (· != x) xs
  rw [errorCofactor, length_foldl_polyMulRoot, List.length_singleton]
  omega

theorem eval_errorCofactor_other {xs : List Byte} {x y : Byte} (hy : y ∈ xs) (hne : y ≠ x) :
    (blockPoly par (errorCofactor par xs x)).eval (gf par y) = 0 := by
  rw [blockPoly_errorCofactor]
  refine dvd_iff_isRoot.mp (List.dvd_prod (List.mem_map.mpr ⟨y, ?_, rfl⟩))
  simpa [hne] using hy

end

section
variable {par : Params} (hok : rsFieldOk par = true)
include hok

theorem eval_errorCofactor_self (xs : List Byte) (x : Byte) :
    (blockPoly par (errorCofactor par xs x)).eval (gf par x) ≠ 0 := by
  have := gfRing_isDomain hok
  rw [blockPoly_errorCofactor, eval_list_prod, List.map_map]
  refine List.prod_ne_zero fun h0 => ?_
  obtain ⟨y, hy, h0⟩ := List.mem_map.mp h0
  simp only [Function.comp_apply, eval_sub, eval_X, eval_C, sub_eq_zero] at h0
  simp [gf_injective par h0] at hy

/-- The error value at the locator of byte `j` is the error of byte `j`, when the locators of all wrong bytes are among
fewer than `p` locators `xs`. -/
theorem rsErrorValue_eq_error {p : Nat} {e syn xs : List Byte} (hn : e.length ≤ 255) (hsyn : IsMomentList par p e syn)
    (hxs : xs.length < p) (hall : ∀ i ∈ nonzeroPositions e, ∃ y ∈ xs, gf par y = locator par e.length i) {j : Nat}
    (hj : j < e.length) {x : Byte} (hx : gf par x = locator par e.length j) :
    rsErrorValue par syn xs x = e.getD j 0 := by
  have hother : ∀ i ∈ nonzeroPositions e, i ≠ j →
      (blockPoly par (errorCofactor par xs x)).eval (locator par e.length i) = 0 := fun i hi hij => by
    obtain ⟨y, hy, hloc⟩ := hall i hi
    rw [← hloc]
    refine eval_errorCofactor_other par hy ?_
    rintro rfl
    exact hij (locator_inj hok hn (mem_nonzeroPositions.mp hi).1 hj (hloc.symm.trans hx))
  have hlen := length_errorCofactor_le par xs x
  have hnum : gf par (gfDot par (errorCofactor par xs x).reverse syn) =
      gf par (e.getD j 0) * gf par x ^ par.rsFcr * (blockPoly par (errorCofactor par xs x)).eval (gf par x) := by
    rw [gfDot_comm, gf_gfDot_moments par e syn _ 0 fun k hk => by
      rw [Nat.zero_add]
      exact hsyn k (by rw [List.length_reverse] at hk; omega)]
    rw [pow_zero, one_mul, List.reverse_reverse, blockMoments_eq_term par hj hother, hx]
  have hden : gfMul par (gfPow par x par.rsFcr) (polyEval par (errorCofactor par xs x) x) ≠ 0 := fun h0 => by
    have := gfRing_isDomain hok
    have hzero := congrArg (gf par) h0
    rw [gf_gfMul, gf_gfPow, gf_polyEval, hx, gf_zero, ← hx] at hzero
    exact mul_ne_zero (hx ▸ pow_ne_zero _ (locator_ne_zero hok e.length j)) (eval_errorCofactor_self hok xs x) hzero
  refine gf_injective par ?_
  have hinv := gf_mul_gfInv hok hden
  rw [gf_gfMul, gf_gfPow, gf_polyEval] at hinv
  rw [rsErrorValue_eq, gf_gfMul, hnum, mul_assoc, mul_assoc, ← mul_assoc (gf par x ^ _), hinv, mul_one]

theorem nodup_rsLocators {n : Nat} (hpos : 1 ≤ n) (hn : n ≤ 255) : (rsLocators par n).Nodup := by
  rw [rsLocators_eq par hpos]
  refine List.nodup_range.map_on fun i hi j hj h => ?_
  rw [List.mem_range] at hi hj
  have h := congrArg (gf par) h
  rw [gf_gfPow, gf_gfPow] at h
  exact locator_inj hok hn hi hj h

/-- A nonzero vector of length `t + 1` vanishes at no more than `t` locators. -/
theorem length_rsErrorLocators_le {n t : Nat} (hpos : 1 ≤ n) (hn : n ≤ 255) {lam : List Byte}
    (hlen : lam.length = t + 1) (hne : ∃ q, lam.getD q 0 ≠ 0) : (rsErrorLocators par n lam).length ≤ t := by
  have := gfRing_isDomain hok
  by_contra hlt
  obtain ⟨q, hq⟩ := hne
  have hnodup : (rsErrorLocators par n lam).Nodup := (nodup_rsLocators hok hpos hn).filter _
  have hcard : ((rsErrorLocators par n lam).map (gf par)).toFinset.card = (rsErrorLocators par n lam).length := by
    rw [List.toFinset_card_of_nodup (hnodup.map (gf_injective par)), List.length_map]
  have hdeg := degree_blockPoly_lt par lam.reverse
  rw [List.length_reverse, hlen] at hdeg
  have hzero : blockPoly par lam.reverse = 0 := by
    refine eq_zero_of_degree_lt_of_eval_finset_eq_zero ((rsErrorLocators par n lam).map (gf par)).toFinset
      (hdeg.trans_le ?_) fun x hx => ?_
    · rw [hcard]
      exact_mod_cast Nat.lt_of_not_le hlt
    obtain ⟨y, hy, rfl⟩ := List.mem_map.mp (List.mem_toFinset.mp hx)
    rw [← gf_polyEval, eq_of_beq (List.mem_filter.mp hy).2, gf_zero]
  have hcoeff := coeff_blockPoly_reverse par lam q
  rw [hzero, coeff_zero] at hcoeff
  exact hq (gf_eq_zero.mp hcoeff.symm)

/-! ### Correction -/

/-- The error locators include the locator of every wrong byte, when at most `t` bytes are wrong. -/
theorem exists_rsErrorLocators {p : Nat} {e syn : List Byte} (hn : e.length ≤ 255) (hsyn : IsMomentList par p e syn)
    (hcard : (nonzeroPositions e).card ≤ p / 2) {i : Nat} (hi : i ∈ nonzeroPositions e) :
    ∃ y ∈ rsErrorLocators par e.length (rsLocatorPoly par (p / 2) syn), gf par y = locator par e.length i := by
  obtain ⟨hlen, -, hkey⟩ := rsLocatorPoly_spec hok (p / 2) syn
  have hQ : ∀ k, k < p / 2 →
      blockMoments par e (X ^ k * blockPoly par (rsLocatorPoly par (p / 2) syn).reverse) = 0 := fun k hk => by
    rw [← gf_gfDot_moments par e _ _ k fun m hm => by
      rw [hlen] at hm
      rw [List.getElem?_take_of_lt hm, List.getElem?_drop]
      exact hsyn (k + m) (by omega)]
    rw [hkey k hk, gf_zero]
  have hi' := (mem_nonzeroPositions.mp hi).1
  refine ⟨gfPow par par.rsAlpha (e.length - 1 - i), List.mem_filter.mpr ⟨?_, ?_⟩, gf_gfPow par _ _⟩
  · rw [rsLocators_eq par (by omega)]
    exact List.mem_map.mpr ⟨i, List.mem_range.mpr hi', rfl⟩
  · refine beq_iff_eq.mpr ((gf_eq_zero (par := par)).mp ?_)
    rw [gf_polyEval, gf_gfPow]
    exact eval_locator_eq_zero hok hn hcard hQ hi

/-- A codeword within distance `t` is what the correction answers: a wrong byte's locator is among the error locators,
and the error value at any of these is the byte's error, which is 0 for a byte that was right. -/
theorem rsCorrect_eq {p : Nat} {b c : List Byte} (hp : 2 ≤ p) (hlen : b.length = c.length) (hpos : 1 ≤ b.length)
    (hn : b.length ≤ 255) (hc : rsIsCodeword par p c = true) (hd : rsDist b c ≤ p / 2) : rsCorrect par p b = c := by
  have hlene := length_xorBlocks hlen
  have hsyn := isMomentList_rsSyndromes par hlen hc
  have hall : ∀ i ∈ nonzeroPositions (xorBlocks b c),
      ∃ y ∈ errorLocators par p b, gf par y = locator par (xorBlocks b c).length i := fun i hi => by
    rw [errorLocators, ← hlene]
    exact exists_rsErrorLocators hok (hlene ▸ hn) hsyn (rsDist_eq_card hlen ▸ hd) hi
  obtain ⟨hlam, hne, -⟩ := rsLocatorPoly_spec hok (p / 2) (rsSyndromes par p b)
  have hxs : (errorLocators par p b).length ≤ p / 2 := length_rsErrorLocators_le hok hpos hn hlam hne
  have hlenc := length_rsCorrect par p hpos
  refine eq_of_getD_eq (hlenc.trans hlen) fun j hj => ?_
  rw [hlenc] at hj
  have hx : gf par (gfPow par par.rsAlpha (b.length - 1 - j)) = locator par (xorBlocks b c).length j := by
    rw [gf_gfPow, hlene, locator]
  rw [getD_rsCorrect par p hj]
  split
  · rw [rsErrorValue_eq_error hok (hlene ▸ hn) hsyn (by omega) hall (hlene ▸ hj) hx, getD_xorBlocks hlen,
      ← BitVec.xor_assoc, BitVec.xor_self, BitVec.zero_xor]
  · rename_i hnot
    by_contra hwrong
    obtain ⟨y, hy, hloc⟩ := hall j ((mem_nonzeroPositions_xorBlocks hlen).mpr ⟨hj, hwrong⟩)
    exact hnot (gf_injective par (hloc.trans hx.symm) ▸ hy)

/-- The bounded branch of R140. -/
theorem rsBounded_eq {p : Nat} {b c : List Byte} (hp : 2 ≤ p) (hlen : b.length = c.length) (hpos : 1 ≤ b.length)
    (hn : b.length ≤ 255) (hc : rsIsCodeword par p c = true) (hd : rsDist b c ≤ p / 2) :
    rsBounded par p b = .ok c (rsDist b c) := by
  by_cases hb : rsIsCodeword par p b = true
  · have hbc : b = c := eq_of_codewords_of_rsDist_le hok hlen hn hb hc (by omega)
    rw [rsBounded, if_pos hb, ← hbc, rsDist_self]
  · simp [rsBounded, hb, rsCorrect_eq hok hp hlen hpos hn hc hd, hc, hd]

end

/-- No codeword within distance `t`: the bounded branch answers FAIL. -/
theorem rsBounded_eq_fail {par : Params} {p : Nat} {b : List Byte} (hpos : 1 ≤ b.length)
    (h : ∀ c : List Byte, c.length = b.length → rsIsCodeword par p c = true → p / 2 < rsDist b c) :
    rsBounded par p b = .fail := by
  cases hr : rsBounded par p b with
  | fail => rfl
  | ok c k =>
    obtain ⟨hc, hlen, rfl, hk⟩ := rsBounded_ok hpos hr
    exact absurd hk (Nat.not_le_of_lt (h c hlen hc))

/-- The draw is FAIL, or a codeword of the block's length with a count from 1 to `t` (R140). -/
theorem rsBeyondDraw_cases (par : Params) (draw : Nat) {p n : Nat} (hp : 2 ≤ p) (hn : p ≤ n) :
    rsBeyondDraw par draw p n = .fail ∨
      ∃ c k, rsBeyondDraw par draw p n = .ok c k ∧ c.length = n ∧ rsIsCodeword par p c = true ∧ 1 ≤ k ∧ k ≤ p / 2 := by
  rw [rsBeyondDraw]
  split
  · exact .inl rfl
  · refine .inr ⟨_, _, rfl, ?_, rsIsCodeword_rsEncode par (by omega) _, Nat.succ_pos _,
      Nat.succ_le_of_lt (Nat.mod_lt _ (by omega))⟩
    rw [length_rsEncode, List.length_map, List.length_range]
    omega

/-- Settles O45: `rsBounded_eq` within distance `t`, and the two values of RS_BEYOND_T beyond it. -/
theorem rsDecodeIsBoundedDistanceDecoding : Obligations.RsDecodeIsBoundedDistanceDecoding := by
  intro par draw p b hok hp hlt hn
  have hp2 : 2 ≤ p := by
    simp only [List.mem_cons, List.not_mem_nil, or_false] at hp
    omega
  refine ⟨fun c hlen hc hd => ?_, fun hfar => ?_⟩
  · rw [rsDecode, rsBounded_eq hok hp2 hlen.symm (by omega) hn hc hd]
  · have hfail := rsBounded_eq_fail (by omega) hfar
    refine ⟨fun hbeyond => ?_, fun hbeyond => ?_⟩ <;> simp only [rsDecode, hfail, hbeyond]
    exact rsBeyondDraw_cases par draw hp2 hlt.le

end Sys2Proof.Machine
end

section
/-! PROOFS. The descrambler and the commands DESCRAMBLE and VALIDATE (41_descrambler.md): the two byte functions are
inverse, each descrambled bit as a sum of received bits and a seed bit, and what the two commands leave. -/

namespace Sys2Proof.Machine

/-! ### The byte functions are inverse (R175) -/

theorem scrambleBytes_descrambleBytes (seed : Lfsr) (x : List Byte) :
    scrambleBytes seed (descrambleBytes seed x) = x := eq_of_beq (validateBytes_descrambleBytes seed x)

theorem descrambleBytes_scrambleBytes (seed : Lfsr) (p : List Byte) :
    descrambleBytes seed (scrambleBytes seed p) = p := by
  rw [descrambleBytes, bitsOfBytes_scrambleBytes, descrambleBits_scrambleBits, length_scrambleBytes,
    bytesOfBits_bitsOfBytes]

/-- Settles O27, by the two inverse laws of the byte functions. -/
theorem scrambleAndDescrambleAreInverse : Obligations.ScrambleAndDescrambleAreInverse := fun seed b =>
  ⟨scrambleBytes_descrambleBytes seed b, descrambleBytes_scrambleBytes seed b, validateBytes_descrambleBytes seed b⟩

/-! ### The descrambled bits (R171, R176) -/

/-- The state moves down one place, and the received bit enters at places 3 and 8, from where it comes to place 0 for
the output bits 4 and 9 positions later (R171). -/
theorem getLsbD_lfsrNext (ds : Lfsr) (c : Bool) (j : Nat) :
    (lfsrNext ds c).getLsbD j = (ds.getLsbD (j + 1) ^^ ((c && decide (j + 1 = 4)) ^^ (c && decide (j + 1 = 9)))) := by
  rw [lfsrNext, show (0x100 : Lfsr) = BitVec.twoPow 9 8 from rfl, show (0x008 : Lfsr) = BitVec.twoPow 9 3 from rfl]
  cases c
  · simp [Nat.add_comm 1 j]
  · simp [BitVec.getLsbD_twoPow, Nat.add_comm 1 j, Bool.xor_comm, eq_comm]

/-- The received bit `d` places before position `p`, or 0 where there are not that many. -/
def receivedBefore (l : List Bool) (p d : Nat) : Bool := decide (d ≤ p) && l.getD (p - d) false

/-- Behind a new first bit every place back is as before, but for the one that reaches the new bit. -/
theorem receivedBefore_cons (c : Bool) (l : List Bool) (p d : Nat) (hd : d ≠ 0) :
    receivedBefore (c :: l) (p + 1) d = ((c && decide (p + 1 = d)) ^^ receivedBefore l p d) := by
  simp only [receivedBefore]
  rcases Nat.lt_trichotomy d (p + 1) with h | rfl | h
  · rw [show p + 1 - d = p - d + 1 by omega, List.getD_cons_succ]
    simp [h.le, Nat.le_of_lt_succ h, h.ne']
  · simp
  · simp [h.not_ge, h.ne, show ¬ d ≤ p by omega]

/-- Every descrambled bit: the received bit, those 4 and 9 places before it, and the bit of the first state that reaches
place 0 by then. -/
theorem getElem?_descrambleBits (ds : Lfsr) (l : List Bool) (p : Nat) :
    (descrambleBits ds l)[p]? =
      l[p]?.map fun c => c ^^ (ds.getLsbD p ^^ (receivedBefore l p 4 ^^ receivedBefore l p 9)) := by
  induction l generalizing ds p with
  | nil => rfl
  | cons c l ih =>
    rw [descrambleBits_cons]
    cases p with
    | zero => simp [receivedBefore]
    | succ p =>
      rw [List.getElem?_cons_succ, List.getElem?_cons_succ, ih, getLsbD_lfsrNext,
        receivedBefore_cons _ _ _ 4 (by decide), receivedBefore_cons _ _ _ 9 (by decide)]
      simp only [Bool.xor_assoc, Bool.xor_left_comm]

/-- From bit 9 on the state's own bits are used up. -/
theorem getElem?_descrambleBits_of_nine_le (ds : Lfsr) (l : List Bool) {p : Nat} (hp : 9 ≤ p) :
    (descrambleBits ds l)[p]? = l[p]?.map fun c => c ^^ (receivedBefore l p 4 ^^ receivedBefore l p 9) := by
  rw [getElem?_descrambleBits, BitVec.getLsbD_of_ge ds p hp]
  simp only [Bool.false_xor]

/-- Settles O28: no bit of the seed stands in the formula from bit 9 on. -/
theorem descrambleSynchronizesAfterNineBits : Obligations.DescrambleSynchronizesAfterNineBits := by
  intro x seed seed' k hk
  rw [bitsOfBytes_descrambleBytes, bitsOfBytes_descrambleBytes, getElem?_descrambleBits_of_nine_le _ _ hk,
    getElem?_descrambleBits_of_nine_le _ _ hk]

/-- Settles O29: position `k + 9` has received bits 4 and 9 places before it. -/
theorem descrambledBitIsXorOfThreeReceivedBits : Obligations.DescrambledBitIsXorOfThreeReceivedBits := by
  intro x seed k hk
  have hlt : k + 9 < (bitsOfBytes x).length := by rwa [length_bitsOfBytes]
  rw [bitsOfBytes_descrambleBytes, List.getD_eq_getElem?_getD, getElem?_descrambleBits_of_nine_le _ _ (by omega),
    List.getD_eq_getElem _ _ hlt, List.getElem?_eq_getElem hlt]
  simp [receivedBefore]

/-! ### The commands (R177, R178) -/

/-- Settles O30: the completion step writes OUT with as many bytes as it reads of IN. -/
theorem descrambleWritesOut : Obligations.DescrambleWritesOut := by
  intro n s
  have hlen : (descrambleBytes s.seed (readIn s n.toNat)).length = n.toNat := by simp
  have hframe := sameOutside_writeOut (descrambleBytes s.seed (readIn s n.toNat)) s
  rw [hlen] at hframe
  exact ⟨_, rfl, holdsOut_writeOut _ s, hframe, hlen, (toNat_outLen_writeOut (by omega) s).trans hlen, rfl, rfl⟩

/-- VALIDATE for either result of the comparison (R178). -/
theorem exec_validate_of {n : BitVec 8} {s : State} {ok : Bool}
    (h : validateBytes s.seed (readIn s n.toNat) (readOut s n.toNat) = ok) :
    exec (.validate n) s = .next
      { s with
        status :=
          { s.status with done := true, scramblerOk := ok, reason := if ok then .none else .scramblerMismatch }
        eng := .idle
        draws := s.draws + 1 } := h ▸ rfl

/-- Settles O31, by the two results of the comparison. -/
theorem validateReportsTheComparison : Obligations.ValidateReportsTheComparison := fun _ _ =>
  ⟨fun h => exec_validate_of (beq_iff_eq.mpr h), fun h => exec_validate_of (beq_eq_false_iff_ne.mpr h)⟩

/-- Bytes written before and unchanged since are read the same, whatever the draw numbers. -/
theorem bytesAt_eq_of_written {s t : State} {a n : Nat} (hw : ∀ i, i < n → (Memory.get? s.mem (a + i)).isSome = true)
    (hm : ∀ i, i < n → Memory.get? t.mem (a + i) = Memory.get? s.mem (a + i)) : bytesAt t a n = bytesAt s a n := by
  refine List.map_congr_left fun i hi => ?_
  rw [List.mem_range] at hi
  obtain ⟨v, hv⟩ := Option.isSome_iff_exists.mp (hw i hi)
  rw [byteAt, byteAt, hm i hi, hv]
  rfl

/-- Settles O32: after DESCRAMBLE, OUT holds the descrambled bytes of a written IN that stands as it stood, and the seed
is the same. -/
theorem validateAfterDescrambleSucceeds : Obligations.ValidateAfterDescrambleSucceeds := by
  intro n s hw
  obtain ⟨t, hx, hout, -, hlen, -⟩ := descrambleWritesOut n s
  have hkept := exec_kept rfl hx
  have hin : readIn t n.toNat = readIn s n.toNat := bytesAt_eq_of_written hw fun i hi =>
    hkept.outsideOut _ (by simp only [inBase, outBase]; omega)
  have hread : readOut t n.toNat = descrambleBytes s.seed (readIn s n.toNat) := by
    simpa [hlen, readOut] using bytesAt_of_written hout
  refine ⟨t, _, hx, (validateReportsTheComparison n t).1 ?_, rfl, rfl⟩
  rw [hread, hkept.seed, hin, scrambleBytes_descrambleBytes]

end Sys2Proof.Machine
end

section
/-! PROOFS. Length, Hamming CRC and CRC-16/X.25 (42_crc.md): where a symbol stands in the word that a shift-and-or loop
assembles, the Hamming table, and the CRC as a linear shift register that loses nothing. -/

namespace Sys2Proof.Machine

open Sys2Proof.Config

/-! ### Words assembled by shift and or (R190, R193) -/

/-- A symbol of `d` bits with `m` symbols after it stands `d * m` places up in the assembled word. -/
theorem getLsbD_foldl_shift_or {w d : Nat} (g : Byte → BitVec w) (hg : ∀ b j, d ≤ j → (g b).getLsbD j = false)
    {l : List Byte} {b : Byte} {k m j : Nat} (hk : l[k]? = some b) (hlen : l.length = k + m + 1) (hj : j < d)
    (hw : d * m + j < w) :
    (l.foldl (fun (acc : BitVec w) x => (acc <<< d) ||| g x) 0).getLsbD (d * m + j) = (g b).getLsbD j := by
  induction l using List.reverseRecOn generalizing m with
  | nil => simp at hk
  | append_singleton l x ih =>
    rw [List.length_append, List.length_singleton] at hlen
    rw [List.foldl_concat, BitVec.getLsbD_or]
    cases m with
    | zero =>
      obtain rfl : x = b := by simpa [show k = l.length by omega] using hk
      simp [hj]
    | succ m =>
      rw [List.getElem?_append_left (by omega)] at hk
      rw [Nat.mul_succ, Nat.add_right_comm] at hw ⊢
      rw [BitVec.getLsbD_shiftLeft, hg x _ (by omega), Nat.add_sub_cancel, ih hk (by omega) (by omega)]
      simp [hw]

/-- Byte `2 + k` of the header plaintext gives length bit `9 - k` (R190). -/
theorem getLsbD_lengthOf {hp : List Byte} {b : Byte} {k : Nat} (hk : k < 10) (hb : hp[2 + k]? = some b)
    (hlen : 12 ≤ hp.length) : (lengthOf hp).getLsbD (9 - k) = b.getLsbD 7 := by
  have hbit := getLsbD_foldl_shift_or (w := 10) (d := 1) (fun b => if b.msb then 1 else 0)
    (fun b j hj => by split <;> simp [BitVec.getLsbD_one]; omega)
    (l := (hp.drop 2).take 10) (b := b) (k := k) (m := 9 - k) (j := 0)
    (by rw [List.getElem?_take, if_pos hk, List.getElem?_drop, hb]) (by simp; omega) (by decide) (by omega)
  rw [Nat.one_mul, Nat.add_zero] at hbit
  rw [lengthOf, hbit, BitVec.msb_eq_getLsbD_last]
  split <;> simp_all

/-- Byte `k` of the encoded FCS with `m` bytes after it gives nibble `m`, the least significant being 0 (R193). -/
theorem extractLsb'_hammingFcs (par : Params) {e : List Byte} {b : Byte} {k m : Nat} (hb : e[k]? = some b)
    (hlen : e.length = k + m + 1) (hm : m < 4) :
    (hammingFcs par e).extractLsb' (4 * m) 4 = hammingNibble par b := by
  refine BitVec.eq_of_getLsbD_eq fun j hj => ?_
  rw [BitVec.getLsbD_extractLsb', hammingFcs,
    getLsbD_foldl_shift_or (fun b => (hammingNibble par b).setWidth 16)
      (fun b j hj => by simp [BitVec.getLsbD_of_ge _ _ hj]) hb hlen hj (by omega)]
  simp [hj]
  omega

/-- Settles O33: the bytes decoded are those of IN, and the command is one record update. -/
theorem lengthDecodeReadsTheHeaderBits : Obligations.LengthDecodeReadsTheHeaderBits := by
  refine fun s => ⟨_, rfl, rfl, fun k hk => getLsbD_lengthOf hk ?_ (by simp), rfl, rfl⟩
  rw [readIn, getElem?_bytesAt _ _ _ _ (by omega), Nat.add_assoc]

/-- Settles O36: the bytes decoded are those of IN, and the command is one record update. -/
theorem hammingCrcConcatenatesTheNibbles : Obligations.HammingCrcConcatenatesTheNibbles := by
  refine fun s => ⟨_, rfl, fun k hk => ?_, rfl⟩
  exact extractLsb'_hammingFcs s.par (getElem?_bytesAt s inBase 4 k hk) (by simp; omega) (by omega)

/-! ### The Hamming table (R192, R195) -/

theorem hammingNibble_congr (par : Params) {a b : Byte} (h : a.setWidth 7 = b.setWidth 7) :
    hammingNibble par a = hammingNibble par b := by simp only [hammingNibble, h]

/-- Settles O34: the table is indexed by the low 7 bits, which a change of bit 7 leaves. -/
theorem hammingNibbleIndexesTheTable : Obligations.HammingNibbleIndexesTheTable := by
  refine fun par e => ⟨?_, hammingNibble_congr par ?_⟩
  · have hindex : (e.setWidth 7).toNat = e.toNat % 128 := BitVec.toNat_setWidth 7 e
    rw [hammingNibble, ← hindex]
    exact Vector.getElem?_eq_getElem _
  · rw [BitVec.setWidth_xor]
    simp

/-- Each 7-bit value is the codeword of the nibble it decodes to, or one bit from it: the 16 spheres of 8 values cover
the 128 values. -/
theorem near_hammingEncode_hammingNibble : ∀ v : Byte, v.toNat < 128 →
    v = hammingEncode (hammingNibble defaultParams v) ∨
      ∃ j, j < 7 ∧ v = hammingEncode (hammingNibble defaultParams v) ^^^ BitVec.ofNat 8 (2 ^ j) := by
  decide +kernel

/-- Settles O35: the spheres about the 16 codewords by their values, and the table's own answer as the near codeword. -/
theorem defaultHammingTableDecodesToTheNearest : Obligations.DefaultHammingTableDecodesToTheNearest :=
  ⟨by decide +kernel, fun v hv => ⟨_, near_hammingEncode_hammingNibble v hv⟩⟩

/-! ### One shift of the CRC register (R196) -/

/-- A shift moves every bit down one place and adds the bit that leaves at the places of 0x8408. -/
theorem getLsbD_crcShift (c : Half) (i : Nat) :
    (crcShift c).getLsbD i = (c.getLsbD (i + 1) ^^ (c.getLsbD 0 && (0x8408#16).getLsbD i)) := by
  rw [crcShift, Nat.add_comm]
  split <;> simp_all

theorem crcShift_xor (a b : Half) : crcShift (a ^^^ b) = crcShift a ^^^ crcShift b := by
  refine BitVec.eq_of_getLsbD_eq fun i _ => ?_
  simp only [getLsbD_crcShift, BitVec.getLsbD_xor, Bool.and_xor_distrib_right, Bool.xor_assoc, Bool.xor_left_comm]

/-- The bit that leaves a shift comes back at place 15, so a shift can be undone. -/
theorem crcShift_injective : Function.Injective crcShift := by
  intro a b h
  have hbit (i : Nat) : (a.getLsbD (i + 1) ^^ (a.getLsbD 0 && (0x8408#16).getLsbD i)) =
      (b.getLsbD (i + 1) ^^ (b.getLsbD 0 && (0x8408#16).getLsbD i)) := by
    rw [← getLsbD_crcShift, ← getLsbD_crcShift, h]
  have hout : a.getLsbD 0 = b.getLsbD 0 := by simpa using hbit 15
  refine BitVec.eq_of_getLsbD_eq fun i _ => ?_
  cases i with
  | zero => exact hout
  | succ i => exact Bool.xor_left_inj.mp (hout ▸ hbit i)

theorem crcShift_iterate_xor (n : Nat) (a b : Half) : crcShift^[n] (a ^^^ b) = crcShift^[n] a ^^^ crcShift^[n] b := by
  induction n generalizing a b with
  | zero => rfl
  | succ n ih => simp only [Function.iterate_succ_apply, crcShift_xor, ih]

/-- While no bit is set at the places that leave, a shift is a plain one. -/
theorem crcShift_iterate_of_low_zero {n : Nat} {c : Half} (h : ∀ i, i < n → c.getLsbD i = false) :
    crcShift^[n] c = c >>> n := by
  induction n generalizing c with
  | zero => simp
  | succ n ih =>
    have hshift : crcShift c = c >>> 1 := if_neg (by rw [h 0 (by omega)]; decide)
    rw [Function.iterate_succ_apply, hshift, ih fun i hi => by simpa [Nat.add_comm 1] using h (i + 1) (by omega),
      ← BitVec.shiftRight_add, Nat.add_comm]

/-! ### One byte of the CRC -/

theorem crcByte_eq (c : Half) (b : Byte) : crcByte c b = crcShift^[8] (c ^^^ b.setWidth 16) := rfl

theorem crcByte_inj {c d : Half} {a b : Byte} :
    crcByte c a = crcByte d b ↔ c ^^^ a.setWidth 16 = d ^^^ b.setWidth 16 :=
  (crcShift_injective.iterate 8).eq_iff

/-- Different register states stay different whatever bytes follow. -/
theorem foldl_crcByte_injective (m : List Byte) : Function.Injective fun c => m.foldl crcByte c := by
  induction m with
  | nil => exact Function.injective_id
  | cons b m ih => exact fun c d h => BitVec.xor_left_inj _ |>.mp (crcByte_inj.mp (ih h))

/-- Settles O40: the two bytes drive the register to different states, and the bytes after them keep these different. -/
theorem crcDetectsEveryOneByteChange : Obligations.CrcDetectsEveryOneByteChange := by
  intro pre post a b hne h
  simp only [crc16X25, List.foldl_append, List.foldl_cons] at h
  have hbyte := crcByte_inj.mp (foldl_crcByte_injective post (BitVec.xor_left_inj _ |>.mp h))
  have hwide : a.setWidth 16 = b.setWidth 16 := BitVec.xor_right_inj _ |>.mp hbyte
  exact hne (Function.LeftInverse.injective (g := BitVec.setWidth 8) (fun x : Byte => by simp) hwide)

/-- The high byte of the register only moves down, and the low byte goes through the eight shifts: the table form. -/
theorem crcByte_eq_of_low (c : Half) (b : Byte) :
    crcByte c b = (c >>> 8) ^^^ crcShift^[8] ((c.setWidth 8 ^^^ b).setWidth 16) := by
  have hsplit : c ^^^ b.setWidth 16 = ((c >>> 8) <<< 8) ^^^ (c.setWidth 8 ^^^ b).setWidth 16 := by
    refine BitVec.eq_of_getLsbD_eq fun i hi => ?_
    rcases Nat.lt_or_ge i 8 with h8 | h8
    · simp [hi, h8]
    · simp [hi, h8, Nat.not_lt.mpr h8, BitVec.getLsbD_of_ge]
  have hhigh : crcShift^[8] ((c >>> 8) <<< 8) = c >>> 8 := by
    rw [crcShift_iterate_of_low_zero fun i hi => by simp [hi]]
    refine BitVec.eq_of_getLsbD_eq fun i hi => ?_
    rcases Nat.lt_or_ge (8 + i) 16 with h16 | h16
    · simp [h16]
    · simp [BitVec.getLsbD_of_ge, h16]
  rw [crcByte_eq, hsplit, crcShift_iterate_xor, hhigh]

/-- The residue of the code: the low FCS byte makes the register's low byte 0xFF, and the high one cancels what is left
of the register, so the end state is the same from every `c`. -/
theorem crcByte_crcByte_fcs (c : Half) :
    crcByte (crcByte c ((c ^^^ 0xFFFF).extractLsb' 0 8)) ((c ^^^ 0xFFFF).extractLsb' 8 8) = 0xF0B8 := by
  have hlow : (c ^^^ 0xFFFF).extractLsb' 0 8 = c.setWidth 8 ^^^ 0xFF := by
    rw [BitVec.extractLsb'_xor, BitVec.setWidth_eq_extractLsb' (by decide)]
    rfl
  have hhigh : ((c ^^^ 0xFFFF).extractLsb' 8 8).setWidth 16 = (c >>> 8) ^^^ 0xFF := by
    have hdown : (c.extractLsb' 8 8).setWidth 16 = c >>> 8 := by
      refine BitVec.eq_of_toNat_eq ?_
      simp [Nat.shiftRight_eq_div_pow]
      omega
    rw [BitVec.extractLsb'_xor, BitVec.setWidth_xor, hdown]
    rfl
  have hfirst : crcByte c (c.setWidth 8 ^^^ 0xFF) = (c >>> 8) ^^^ crcShift^[8] 0xFF := by
    rw [crcByte_eq_of_low, ← BitVec.xor_assoc, BitVec.xor_self, BitVec.zero_xor]
    rfl
  rw [hlow, hfirst, crcByte_eq, hhigh, BitVec.xor_comm (c >>> 8), BitVec.xor_assoc, ← BitVec.xor_assoc (c >>> 8),
    BitVec.xor_self, BitVec.zero_xor]
  decide +kernel

/-- Settles O39: the FCS bytes take the register to the residue, whatever the message left in it. -/
theorem crcOfMessageWithItsFcsIsConstant : Obligations.CrcOfMessageWithItsFcsIsConstant := by
  intro m
  simp only [crc16X25, List.foldl_append, List.foldl_cons, List.foldl_nil, crcByte_crcByte_fcs]
  decide

/-- Settles O38, by running the register. -/
theorem crcCheckValue : Obligations.CrcCheckValue := by
  rw [Obligations.CrcCheckValue]
  decide +kernel

/-! ### CRC_CHECK (R199) -/

/-- The message with the prefix under NP = 0 alone (R102). -/
theorem crcMessage_eq (np : Bool) (n : BitVec 8) (s : State) :
    crcMessage np n s = (if np then [] else s.par.ax25Prefix.toList) ++ readIn s n.toNat := by
  cases np <;> rfl

/-- Settles O37: the command is one record update with the CRC of its message. -/
theorem crcCheckComparesWithRx : Obligations.CrcCheckComparesWithRx := by
  rintro np n s _ rfl
  rw [← crcMessage_eq]
  rfl

end Sys2Proof.Machine
end

section
/-! PROOFS. DECODE_FRAME (43_frame_decode.md): the command stage by stage, its discards and its record; then the frames
of the inverse functions (95_test_vectors.md §2), which decode to their payload. -/

namespace Sys2Proof.Machine

open Sys2Proof.Config

/-! ### The stages (R223 to R229)

The statements give the blocks of the frame by their addresses in IN and the decoder's answers as premises; each lemma
here takes the command one stage further under them. -/

/-- The state after LENGTH_DECODE, with `k` corrections in the header and the length `n` (R224 to R227). -/
def afterHeader (s : State) (k : Nat) (n : BitVec 10) : State :=
  { clearResults s with
    hdrCorr := corrDecoded k
    payloadCount := { valid := true, length := n }
    status := { (clearResults s).status with scramblerOk := true } }

theorem slice_payloadBlock {s : State} {n : Nat}
    (hfit : hdrOffset s.par + 15 + n + 20 ≤ (byteAt s inBase).toNat + 1) :
    slice (rawFrame s) (payloadBase s.par) (n + 16) = bytesAt s (inBase + hdrOffset s.par + 15) (n + 16) :=
  slice_rawFrame s (by simp only [payloadBase]; omega)

theorem slice_encodedCrc {s : State} {n : Nat} (hfit : hdrOffset s.par + 15 + n + 20 ≤ (byteAt s inBase).toNat + 1) :
    slice (rawFrame s) (payloadBase s.par + n + 16) 4 = bytesAt s (inBase + hdrOffset s.par + 15 + n + 16) 4 := by
  rw [slice_rawFrame s (by simp only [payloadBase]; omega), payloadBase]
  simp only [Nat.add_assoc]

theorem decodeFrame_truncated {s : State} (hshort : (byteAt s inBase).toNat + 1 < hdrOffset s.par + 15) :
    exec .decodeFrame s = .next (complete (discard .truncatedHeader (clearResults s))) := by
  rw [exec, execDecodeFrame, frameHeaderFec_truncated (s := clearResults s) (by simpa using hshort)]

section

variable {s : State} (hheader : hdrOffset s.par + 15 ≤ (byteAt s inBase).toNat + 1)
include hheader

theorem decodeFrame_headerFail (hd : rsDecode s.par s.draws 2 (bytesAt s (inBase + hdrOffset s.par) 15) = .fail) :
    exec .decodeFrame s = .next (complete (discard .badHeader { clearResults s with hdrCorr := corrFailed })) := by
  rw [← slice_rawFrame s hheader] at hd
  rw [exec, execDecodeFrame, frameHeaderFec_fail (s := clearResults s) (by simpa using hheader) hd]

theorem decodeFrame_headerOk {hc : List Byte} {k : Nat} {n : BitVec 10}
    (hd : rsDecode s.par s.draws 2 (bytesAt s (inBase + hdrOffset s.par) 15) = .ok hc k)
    (hn : n = lengthOf (descrambleBytes s.seed (hc.take 13))) :
    exec .decodeFrame s = .next (complete (frameLength (rawFrame s) hc n (afterHeader s k n))) := by
  subst hn
  rw [← slice_rawFrame s hheader] at hd
  rw [exec, execDecodeFrame, frameHeaderFec_ok (s := clearResults s) (by simpa using hheader) hd, frameHeader_eq]
  rfl

end

section

variable {s : State} {hc : List Byte} {k : Nat} {n : BitVec 10}
  (hfit : hdrOffset s.par + 15 + n.toNat + 20 ≤ (byteAt s inBase).toNat + 1)
  (hd : rsDecode s.par s.draws 2 (bytesAt s (inBase + hdrOffset s.par) 15) = .ok hc k)
  (hn : n = lengthOf (descrambleBytes s.seed (hc.take 13))) (hzero : n ≠ 0)
include hfit hd hn hzero

theorem decodeFrame_lengthOk :
    exec .decodeFrame s = .next (complete (framePayloadFec (rawFrame s) hc n.toNat (afterHeader s k n))) := by
  have hbytes : n.toNat + 20 ≤ (rawFrame s).length - payloadBase s.par := by
    simp only [length_rawFrame, payloadBase]
    omega
  rw [decodeFrame_headerOk (by omega) hd hn, frameLength_ok (s := afterHeader s k n) hzero hbytes]

theorem decodeFrame_payloadFail
    (hpay : rsDecode s.par s.draws 16 (bytesAt s (inBase + hdrOffset s.par + 15) (n.toNat + 16)) = .fail) :
    exec .decodeFrame s =
      .next (complete (discard .payloadFecFail { afterHeader s k n with payCorr := corrFailed })) := by
  rw [← slice_payloadBlock hfit] at hpay
  rw [decodeFrame_lengthOk hfit hd hn hzero, framePayloadFec_fail (s := afterHeader s k n) hpay]

/-- The last stages, on the record of R233. -/
theorem decodeFrame_payloadOk {pc e p : List Byte} {m : Nat}
    (hpay : rsDecode s.par s.draws 16 (bytesAt s (inBase + hdrOffset s.par + 15) (n.toNat + 16)) = .ok pc m)
    (hp : p = descrambleBytes s.seed (pc.take n.toNat))
    (he : e = bytesAt s (inBase + hdrOffset s.par + 15 + n.toNat + 16) 4) :
    exec .decodeFrame s = .next (complete (assemble (outRecord hc e pc n.toNat p)
      (frameCrc (hammingFcs s.par e) (crc16X25 (prefixed s.par p)) (beforePayload s k m n)))) := by
  subst hp he
  rw [← slice_payloadBlock hfit] at hpay
  rw [decodeFrame_lengthOk hfit hd hn hzero, framePayloadFec_ok (s := afterHeader s k n) hpay,
    ← slice_encodedCrc hfit]
  rfl

end

/-! ### The discards (R223, R224, R227 to R229, R234) -/

/-- Settles O49: no stage runs, and `discardedFrame` is the discard of the cleared state. -/
theorem shortFrameIsTruncatedHeader : Obligations.ShortFrameIsTruncatedHeader := fun _ => decodeFrame_truncated

/-- Settles O50: the header stage alone runs. -/
theorem uncorrectableHeaderIsBadHeader : Obligations.UncorrectableHeaderIsBadHeader := fun _ => decodeFrame_headerFail

/-- Settles O51: the two length checks after a decoded header. -/
theorem badLengthsAreDiscarded : Obligations.BadLengthsAreDiscarded := by
  intro s hc k n hheader hd hn
  rw [decodeFrame_headerOk hheader hd hn]
  refine ⟨fun hzero => ?_, fun hzero hshort => ?_⟩
  · rw [frameLength_zero hzero]
    rfl
  · have hbytes : (rawFrame s).length - payloadBase s.par < n.toNat + 20 := by
      simp only [length_rawFrame, payloadBase]
      omega
    rw [frameLength_short (s := afterHeader s k n) hzero hbytes]
    rfl

/-- Settles O52: the payload stage fails after a header that decoded and a length that fits. -/
theorem uncorrectablePayloadIsDiscarded : Obligations.UncorrectablePayloadIsDiscarded := fun _ _ _ _ =>
  decodeFrame_payloadFail

/-! ### The record (R230 to R233) -/

theorem holdsOut_append {t : State} {off : Nat} {a b : List Byte} :
    holdsOut t off (a ++ b) ↔ holdsOut t off a ∧ holdsOut t (off + a.length) b := by
  refine ⟨fun h => ⟨fun i hi => ?_, fun i hi => ?_⟩, fun ⟨ha, hb⟩ i hi => ?_⟩
  · rw [h i (by simp; omega), List.getElem?_append_left hi]
  · rw [← Nat.add_assoc, Nat.add_assoc _ a.length, h _ (by simp; omega), List.getElem?_append_right (by omega),
      Nat.add_sub_cancel_left]
  · rcases Nat.lt_or_ge i a.length with hlt | hge
    · rw [ha i hlt, List.getElem?_append_left hlt]
    · rw [List.length_append] at hi
      rw [List.getElem?_append_right hge, ← hb _ (by omega), ← Nat.add_assoc, Nat.add_assoc _ a.length,
        Nat.add_sub_cancel' hge]

/-- The five fields of the record stand at R233's offsets. -/
theorem holdsOut_outRecord {t : State} {hc e pc p : List Byte} {n : Nat} (hhc : hc.length = 15) (he : e.length = 4)
    (hpc : pc.length = n + 16) (h : holdsOut t 0 (outRecord hc e pc n p)) :
    holdsOut t 0 (hc.take 13) ∧ holdsOut t 13 (hc.drop 13) ∧ holdsOut t 15 e ∧ holdsOut t 19 (pc.drop n) ∧
      holdsOut t 35 p := by
  simpa [outRecord, holdsOut_append, hhc, he, hpc, and_assoc, -List.take_append_drop] using h

/-- Settles O53: the record is written over the start of OUT, and its parts stand where their lengths put them. -/
theorem decodedPayloadIsAssembled : Obligations.DecodedPayloadIsAssembled := by
  intro s hc pc e p k m n rx computed hfit hd hn hzero hpay hp he hrx hcomputed
  have hhc : hc.length = 15 := (rsDecode_ok (by omega) (by simp) hd).1.trans (by simp)
  have hpc : pc.length = n.toNat + 16 := (rsDecode_ok (by omega) (by simp) hpay).1.trans (by simp)
  have hlen : (outRecord hc e pc n.toNat p).length = 35 + n.toNat :=
    length_outRecord hhc (by simp [he]) hpc (by simp [hp, hpc])
  refine ⟨_, decodeFrame_payloadOk hfit hd hn hzero hpay hp he, ?_⟩
  obtain ⟨h0, h13, h15, h19, h35⟩ := holdsOut_outRecord hhc (by simp [he]) hpc
    (holdsOut_writeOut (outRecord hc e pc n.toNat p) s)
  have hout := sameOutside_writeOut (outRecord hc e pc n.toNat p) s
  rw [hlen] at hout
  refine ⟨h0, h13, h15, h19, h35, hout, ?_⟩
  subst hrx hcomputed
  rw [← hlen]
  simp only [assemble, frameCrc_status, beq_iff_eq]
  rfl

/-- REASON after ASSEMBLED is the comparison's (R232). -/
theorem assemble_reason (record : List Byte) (s : State) :
    ((assemble record s).status.reason = .none ∨ (assemble record s).status.reason = .crcMismatch) ∧
      ((assemble record s).status.reason = .none ↔ (assemble record s).status.crcOk = true) := by
  have hreason : (assemble record s).status.reason = if s.status.crcOk then .none else .crcMismatch := rfl
  have hcrc : (assemble record s).status.crcOk = s.status.crcOk := rfl
  rw [hreason, hcrc]
  cases s.status.crcOk <;> simp

/-- Settles O54, by the inversion of the command. -/
theorem decodeFrameOutcomes : Obligations.DecodeFrameOutcomes := by
  intro s t hx
  rcases decodeFrame_cases s with
    ⟨r, so, hdr, pay, cnt, hr, -, -, -, e⟩ | ⟨hc, k, pc, m, n, hhc, -, hpc, -, hfit, e⟩
  · obtain rfl := Host.Outcome.next.inj (hx.symm.trans e)
    exact ⟨.inr ⟨rfl, rfl, rfl, rfl, rfl, hr⟩, rfl⟩
  · obtain ⟨record, -, hrecord⟩ := framePayload_record (f := rawFrame s)
      (s := beforePayload s k m n) hhc hpc (by rwa [length_rawFrame])
    rw [hrecord] at e
    obtain rfl := Host.Outcome.next.inj (hx.symm.trans e)
    obtain ⟨hreason, hiff⟩ := assemble_reason record _
    exact ⟨.inl ⟨rfl, hreason, hiff, rfl⟩, rfl⟩

/-! ### Frames of the inverse functions (R236)

`frameOf` puts the blocks where DECODE_FRAME looks for them; each stage undoes one step of 95_test_vectors.md §2. -/

/-- Written bytes between others are what is read at their place. -/
theorem bytesAt_of_holdsIn {s : State} {a b c : List Byte} (h : holdsIn s (a ++ b ++ c)) :
    bytesAt s (inBase + a.length) b.length = b := by
  refine bytesAt_of_written fun i hi => ?_
  rw [Nat.add_assoc, h _ (by simp; omega), List.append_assoc, List.getElem?_append_right (by omega),
    Nat.add_sub_cancel_left, List.getElem?_append_left hi]

/-- The three blocks stand behind LEN and EXTRA, which fill the frame up to HDR_OFF (R10). -/
theorem frameOf_eq_append (par : Params) (extra : Byte) (hb pb e : List Byte) :
    ∃ lead : List Byte, lead.length = hdrOffset par ∧ lead ++ hb ++ pb ++ e = frameOf par extra hb pb e := by
  cases hoff : par.hdrOff
  case one =>
    exact ⟨[BitVec.ofNat 8 (hb ++ pb ++ e).length], by simp [hdrOffset, hoff], by simp [frameOf, hoff]⟩
  case two =>
    exact ⟨[BitVec.ofNat 8 (extra :: (hb ++ pb ++ e)).length, extra], by simp [hdrOffset, hoff],
      by simp [frameOf, hoff]⟩

theorem getElem?_frameOf_zero (par : Params) (extra : Byte) (hb pb e : List Byte) :
    (frameOf par extra hb pb e)[0]? = some (BitVec.ofNat 8 ((frameOf par extra hb pb e).length - 1)) := by
  simp [frameOf]

/-- A frame of the inverse functions written to IN is read as its length and its blocks (R222). -/
theorem frame_of_holdsIn {s : State} {extra : Byte} {hb pb e : List Byte}
    (hfit : hdrOffset s.par + hb.length + pb.length + e.length ≤ 256) (h : holdsIn s (frameOf s.par extra hb pb e)) :
    (byteAt s inBase).toNat + 1 = hdrOffset s.par + hb.length + pb.length + e.length ∧
      bytesAt s (inBase + hdrOffset s.par) hb.length = hb ∧
      bytesAt s (inBase + hdrOffset s.par + hb.length) pb.length = pb ∧
      bytesAt s (inBase + hdrOffset s.par + hb.length + pb.length) e.length = e := by
  obtain ⟨lead, hlead, hframe⟩ := frameOf_eq_append s.par extra hb pb e
  have hpos := hdrOffset_pos s.par
  have hlen : (frameOf s.par extra hb pb e).length = hdrOffset s.par + hb.length + pb.length + e.length := by
    rw [← hframe, List.length_append, List.length_append, List.length_append, hlead]
  refine ⟨?_, ?_, ?_, ?_⟩
  · have hfirst := (h 0 (by omega)).trans (getElem?_frameOf_zero s.par extra hb pb e)
    rw [byteAt, ← Nat.add_zero inBase, hfirst, Option.getD_some, BitVec.toNat_ofNat]
    omega
  all_goals rw [← hframe] at h
  · have := bytesAt_of_holdsIn (a := lead) (b := hb) (c := pb ++ e) (by simpa using h)
    rwa [hlead] at this
  · have := bytesAt_of_holdsIn (a := lead ++ hb) (b := pb) (c := e) h
    rwa [List.length_append, hlead, ← Nat.add_assoc] at this
  · have := bytesAt_of_holdsIn (a := lead ++ hb ++ pb) (b := e) (c := []) (by simpa using h)
    rwa [List.length_append, List.length_append, hlead, ← Nat.add_assoc, ← Nat.add_assoc] at this

/-! ### Each inverse function undone -/

/-- The length put into bit 7 of the header bytes is the one decoded from them (R190). -/
theorem lengthOf_headerPlain {q : List Byte} (hq : q.length = 13) (n : Nat) :
    lengthOf (headerPlain q n) = BitVec.ofNat 10 n := by
  refine BitVec.eq_of_getLsbD_eq fun i hi => ?_
  have hbyte : (headerPlain q n)[2 + (9 - i)]? =
      some ((q[2 + (9 - i)]'(by omega) &&& 0x7F) ||| if n.testBit i then 0x80 else 0) := by
    have hindex : 11 - (2 + (9 - i)) = i := by omega
    rw [headerPlain, List.getElem?_mapIdx, List.getElem?_eq_getElem (by omega), Option.map_some,
      if_pos (by omega), hindex]
  have hbit := getLsbD_lengthOf (k := 9 - i) (by omega) hbyte (by simp [headerPlain, hq])
  rw [Nat.sub_sub_self (by omega)] at hbit
  rw [hbit, BitVec.getLsbD_ofNat]
  cases n.testBit i <;> simp [hi]

/-- The default table takes a codeword to its nibble (R195). -/
theorem hammingNibble_hammingEncode {par : Params} (h : par.hammingDecode = hammingDefault) (d : BitVec 4) :
    hammingNibble par (hammingEncode d) = d := by
  have hpar : hammingNibble par = hammingNibble defaultParams := by
    funext e
    simp only [hammingNibble, h]
    rfl
  rw [hpar]
  exact (defaultHammingTableDecodesToTheNearest.1 d 0 (by decide)).1

/-- The nibbles of a word, each encoded, decode to the word (R193, R195). -/
theorem hammingFcs_encodedFcs {par : Params} (h : par.hammingDecode = hammingDefault) (f : Half) :
    hammingFcs par (encodedFcs f) = f := by
  have hnibble : ∀ m, m < 4 → (hammingFcs par (encodedFcs f)).extractLsb' (4 * m) 4 = f.extractLsb' (4 * m) 4 := by
    intro m hm
    have hbyte : (encodedFcs f)[3 - m]? = some (hammingEncode (f.extractLsb' (4 * m) 4)) := by
      interval_cases m <;> rfl
    rw [extractLsb'_hammingFcs par hbyte (by simp [encodedFcs]; omega) hm, hammingNibble_hammingEncode h]
  refine BitVec.eq_of_getLsbD_eq fun i hi => ?_
  have hbit := congrArg (fun x => x.getLsbD (i % 4)) (hnibble (i / 4) (by omega))
  simpa [BitVec.getLsbD_extractLsb', Nat.mod_lt, Nat.div_add_mod] using hbit

/-- The systematic codeword starts with the scrambled bytes, which descramble to the plain ones (R134, R175). -/
theorem descrambleBytes_take_rsEncode (par : Params) (seed : Lfsr) (p : Nat) (x : List Byte) :
    descrambleBytes seed ((rsEncode par p (scrambleBytes seed x)).take x.length) = x := by
  rw [rsEncode, List.take_left' (length_scrambleBytes seed x), descrambleBytes_scrambleBytes]

/-- The built header block carries its length (R227). -/
theorem lengthOf_headerBlock (par : Params) (seed : Lfsr) {q : List Byte} (hq : q.length = 13) (n : Nat) :
    lengthOf (descrambleBytes seed ((headerBlock par seed q n).take 13)) = BitVec.ofNat 10 n := by
  have hplain : (headerPlain q n).length = 13 := by simp [headerPlain, hq]
  rw [← hplain, headerBlock, descrambleBytes_take_rsEncode, lengthOf_headerPlain hq]

theorem length_headerBlock (par : Params) (seed : Lfsr) {q : List Byte} (hq : q.length = 13) (n : Nat) :
    (headerBlock par seed q n).length = 15 := by simp [headerBlock, headerPlain, hq]

theorem length_payloadBlock (par : Params) (seed : Lfsr) (p : List Byte) :
    (payloadBlock par seed p).length = p.length + 16 := by simp [payloadBlock]

/-- A codeword decodes to itself, whatever the field parameters (R140). -/
theorem rsDecode_of_codeword {par : Params} {draw p : Nat} {c : List Byte} (h : rsIsCodeword par p c = true) :
    rsDecode par draw p c = .ok c 0 := by
  rw [rsDecode, rsBounded, if_pos h]

/-! ### Built and damaged frames -/

/-- The frame of blocks `hb` and `pb` that the decoder takes to the built codewords gives the record of the payload. -/
theorem decodeFrame_of_blocks {s : State} {extra : Byte} {q p hb pb : List Byte} {k m : Nat}
    (htable : s.par.hammingDecode = hammingDefault) (hq : q.length = 13) (hp : 1 ≤ p.length)
    (hfit : hdrOffset s.par + 15 + p.length + 20 ≤ 256) (hhb : hb.length = 15) (hpb : pb.length = p.length + 16)
    (hhdr : rsDecode s.par s.draws 2 hb = .ok (headerBlock s.par s.seed q p.length) k)
    (hpay : rsDecode s.par s.draws 16 pb = .ok (payloadBlock s.par s.seed p) m)
    (hin : holdsIn s (frameOf s.par extra hb pb (encodedFcs (crc16X25 (prefixed s.par p))))) :
    ∃ t, exec .decodeFrame s = .next t ∧ t.status.record = true ∧ t.status.crcOk = true ∧
      t.status.payloadValid = true ∧ t.status.reason = .none ∧
      t.hdrCorr = { state := .decoded, count := BitVec.ofNat 8 k } ∧
      t.payCorr = { state := .decoded, count := BitVec.ofNat 8 m } ∧
      t.payloadCount = { valid := true, length := BitVec.ofNat 10 p.length } ∧ t.outLen.toNat = 35 + p.length ∧
      holdsOut t 35 p := by
  have hlast : (encodedFcs (crc16X25 (prefixed s.par p))).length = 4 := rfl
  obtain ⟨hlen, hhbAt, hpbAt, hcrcAt⟩ := frame_of_holdsIn (by omega) hin
  rw [hhb] at hlen hhbAt hpbAt hcrcAt
  rw [hpb] at hlen hpbAt hcrcAt
  rw [hlast] at hlen hcrcAt
  generalize hndef : BitVec.ofNat 10 p.length = n
  have hn : n.toNat = p.length := by
    rw [← hndef, BitVec.toNat_ofNat]
    omega
  have hzero : n ≠ 0 := fun h => Nat.ne_of_gt hp (hn.symm.trans (congrArg BitVec.toNat h))
  obtain ⟨t, hx, -, -, -, -, hout, -, ht⟩ := decodedPayloadIsAssembled s (headerBlock s.par s.seed q p.length)
    (payloadBlock s.par s.seed p) (encodedFcs (crc16X25 (prefixed s.par p))) p k m n
    (crc16X25 (prefixed s.par p)) (crc16X25 (prefixed s.par p))
    (by omega) (hhbAt.symm ▸ hhdr) (hndef.symm.trans (lengthOf_headerBlock s.par s.seed hq p.length).symm) hzero
    (by rw [hn, hpbAt, hpay]) (hn.symm ▸ (descrambleBytes_take_rsEncode s.par s.seed 16 p).symm)
    (by rw [hn, Nat.add_assoc _ p.length, hcrcAt]) (hammingFcs_encodedFcs htable _).symm rfl
  refine ⟨t, hx, ?_⟩
  rw [ht] at hout ⊢
  refine ⟨rfl, by simp, by simp, by simp, rfl, rfl, rfl, ?_, hout⟩
  rw [BitVec.toNat_ofNat]
  omega

/-- Settles O56: the built blocks are codewords, which decode to themselves. -/
theorem builtFrameDecodesToItsPayload : Obligations.BuiltFrameDecodesToItsPayload := by
  intro s extra q p htable hq hp hfit hin
  exact decodeFrame_of_blocks htable hq hp hfit (length_headerBlock _ _ hq _) (length_payloadBlock _ _ p)
    (rsDecode_of_codeword (rsIsCodeword_rsEncode s.par (by decide) _))
    (rsDecode_of_codeword (rsIsCodeword_rsEncode s.par (by decide) _)) hin

/-- Settles O57: blocks that near to the built codewords decode to them, with the distances as counts. -/
theorem damagedFrameDecodesToItsPayload : Obligations.DamagedFrameDecodesToItsPayload := by
  intro s extra q p hb pb hok htable hq hp hfit hhb hdh hpb hdp hin
  have hpos := hdrOffset_pos s.par
  have hhdr := (rsDecodeIsBoundedDistanceDecoding s.par s.draws 2 hb hok (by simp) (by omega) (by omega)).1 _
    ((length_headerBlock s.par s.seed hq p.length).trans hhb.symm) (rsIsCodeword_rsEncode s.par (by decide) _) hdh
  have hpay := (rsDecodeIsBoundedDistanceDecoding s.par s.draws 16 pb hok (by simp) (by omega) (by omega)).1 _
    ((length_payloadBlock s.par s.seed p).trans hpb.symm) (rsIsCodeword_rsEncode s.par (by decide) _) hdp
  exact decodeFrame_of_blocks htable hq hp hfit hhb hpb hhdr hpay hin

end Sys2Proof.Machine
end

section
/-! PROOFS. Exceptions (60_exceptions.md): a CMD write by the legality table, the order of the checks of a host write, and
why no state that meets the invariant stops on an access to the window. -/

namespace Sys2Proof.Machine

/-! ### CMD writes (R33, R261, R266) -/

/-- A word written to CMD while IDLE is accepted exactly when the table of R104 lists it, and rejected otherwise. -/
theorem issueCommand_eq (w : Word) (s : State) :
    issueCommand w s = if legalByTable w.toNat then acceptCommand w s else rejectCommand w s := by
  have htable := decodeAcceptsExactlyTheLegalityTable w
  cases hd : decode w with
  | ok i => rw [issueCommand_legal hd, if_pos (htable.mp ⟨i, hd⟩)]
  | error e =>
    have hillegal : ¬ legalByTable w.toNat = true := fun hl => by
      obtain ⟨i, hi⟩ := htable.mpr hl
      simp [hd] at hi
    rw [issueCommand_illegal hd, if_neg hillegal]

/-- Settles O11: the write is served, is neither a bus error nor a hazard, and the table does not list its word. -/
theorem illegalCommandWriteIsRejected : Obligations.IllegalCommandWriteIsRejected := by
  intro s w rest he hl hin
  have hidle : State.eng { s with inputs := rest } = .idle := he
  rw [step_idle_input he hin, serveInput_write_base { s with inputs := rest }, hostWrite_aligned_idle hidle rfl,
    registerWrite_cmd, issueCommand_eq, if_neg (by simp [hl])]
  exact ⟨_, rfl⟩

/-- Settles O14, by the three cases of a host write; CMD's offset is aligned, so the width alone makes a bus error. -/
theorem commandWriteChecksInOrder : Obligations.CommandWriteChecksInOrder := by
  intro s bits w
  rcases hostWrite_cases 0 bits w s with ⟨herr, e⟩ | ⟨rfl, -, hb, e⟩ | ⟨rfl, -, hb, e⟩
  · have hbits : bits ≠ 32 := by simpa using herr
    exact ⟨.writeError, fun _ => rfl, by rw [e, if_pos hbits]⟩
  · exact ⟨.written, fun h => absurd rfl h, by simp [e, hb]⟩
  · exact ⟨.written, fun h => absurd rfl h, by simp [e, hb, registerWrite_cmd, issueCommand_eq]⟩

/-! ### No stop (R260, R269) -/

/-- Serving an access to the window, or the reset, answers a next state. -/
theorem serveInput_next {i : Input} {s : State} (h : i.inWindow s.par = true) : ∃ t, serveInput i s = .next t := by
  cases i with
  | reset => exact ⟨_, rfl⟩
  | read addr bits =>
    obtain ⟨off, ho⟩ := Option.isSome_iff_exists.mp h
    obtain ⟨rfl, hlt⟩ := windowOffset_eq_some.mp ho
    exact ⟨_, serveInput_read_window s hlt bits⟩
  | write addr bits w =>
    obtain ⟨off, ho⟩ := Option.isSome_iff_exists.mp h
    obtain ⟨rfl, hlt⟩ := windowOffset_eq_some.mp ho
    exact ⟨_, serveInput_write_window s hlt bits w⟩

/-- Settles O60, by who acts: the pending word of the engine is legal, and the input served is one to the window. -/
theorem invariantStatesNeverStop : Obligations.InvariantStatesNeverStop := by
  intro s hinv hin
  rcases turn_cases s with
    ⟨pend, k, he, hturn, -⟩ | ⟨pend, k, i, rest, he, hi, -⟩ | ⟨i, rest, he, hi, -⟩ | ⟨he, hi, -⟩
  · obtain ⟨i, hd⟩ := hinv.pendLegal pend k he
    obtain ⟨u, hu⟩ := exec_completes i s
    exact ⟨_, (step_engine he hturn hd).trans hu⟩
  · rw [step_waiting_input he hi]
    exact serveInput_next (hin i (by simp [hi]))
  · rw [step_idle_input he hi]
    exact serveInput_next (hin i (by simp [hi]))
  · exact ⟨s, step_idle_quiet he hi⟩

end Sys2Proof.Machine
end

section
/-! PROOFS. Reset and hazards (70_reset_and_hazards.md): the reset state, what clears HAZARD, host accesses while BUSY,
and why a BUSY engine completes. -/

namespace Sys2Proof.Machine

open Sys2Proof.Config

/-! ### The reset state (R290, R292) -/

/-- Settles O58, by `resetWith_inv`. -/
theorem resetMeetsTheInvariant : Obligations.ResetMeetsTheInvariant := resetWith_inv

/-- The offsets of the eight registers (R32). -/
def registerOffsets : List Nat := [0x000, 0x004, 0x008, 0x00C, 0x010, 0x014, 0x018, 0x01C]

/-- Below IN, every offset that is not a register's reads 0 (R47). -/
theorem registerRead_unlisted (s : State) {off : Nat} (hlow : off < inBase) (hoff : off ∉ registerOffsets) :
    registerRead s off = 0 := by
  simp only [registerOffsets, List.mem_cons, List.not_mem_nil, or_false, not_or] at hoff
  have hin : ¬ (inBase ≤ off ∧ off < outBase) := by omega
  have hout : ¬ (outBase ≤ off ∧ off < bufferEnd) := by
    simp only [inBase] at hlow
    simp only [outBase]
    omega
  simp [registerRead, hoff, hin, hout]

/-- The eight registers after reset (R32). -/
theorem registerRead_resetWith (par : Params) {off : Nat} (hoff : off ∈ registerOffsets) :
    registerRead (State.resetWith par) off = if off = 0x008 then 0x000001F0 else 0 := by
  simp only [registerOffsets, List.mem_cons, List.not_mem_nil, or_false] at hoff
  have hidle : (State.resetWith par).eng = .idle := rfl
  rcases hoff with rfl | rfl | rfl | rfl | rfl | rfl | rfl | rfl
  · rfl
  · rw [registerRead_status_idle hidle]
    simp [statusWord, State.resetWith, busy, reasonCode]
  · rfl
  · rw [registerRead_hdrCorr_idle hidle]
    simp [corrWord, State.resetWith, corrStateCode]
  · rw [registerRead_payCorr_idle hidle]
    simp [corrWord, State.resetWith, corrStateCode]
  · rw [registerRead_payloadCount_idle hidle]
    simp [payloadCountWord, State.resetWith]
  · rw [registerRead_fcs_idle hidle]
    simp [fcsWord, State.resetWith]
  · rw [registerRead_outLen_idle hidle]
    simp [outLenWord, State.resetWith]

/-- Settles O5: the registers by their reset fields, the rest of the space below IN because it is reserved. -/
theorem resetGivesTheStatedValues : Obligations.ResetGivesTheStatedValues := by
  refine fun par => ⟨fun off hlow => ?_, rfl, fun _ => rfl, rfl⟩
  by_cases hoff : off ∈ registerOffsets
  · exact registerRead_resetWith par hoff
  · have hseed : off ≠ 0x008 := fun h => hoff (h ▸ by decide)
    rw [registerRead_unlisted _ hlow hoff, if_neg hseed]

/-! ### What clears HAZARD (R263, R291) -/

theorem registerWrite_hazard (off : Nat) (w : Word) (s : State) :
    (registerWrite off w s).status.hazard = s.status.hazard := by
  rcases registerWrite_cases off w s with ⟨-, -, e⟩ | ⟨-, -, e⟩ | ⟨-, e⟩ | ⟨-, -, e⟩ | ⟨-, -, -, e⟩ <;> rw [e] <;> rfl

/-- HAZARD is sticky under host writes. -/
theorem hostWrite_keeps_hazard {s : State} (h : s.status.hazard = true) (off bits : Nat) (w : Word) :
    (hostWrite off bits w s).status.hazard = true := by
  rcases hostWrite_cases off bits w s with ⟨-, e⟩ | ⟨-, -, -, e⟩ | ⟨-, -, -, e⟩ <;> rw [e]
  · exact h
  · rfl
  · exact (registerWrite_hazard off w s).trans h

/-- Of the host inputs only the reset clears HAZARD, and it leaves the inputs to come. -/
theorem serveInput_clears_hazard {i : Input} {s t : State} (hs : serveInput i s = .next t)
    (h : s.status.hazard = true) (ht : t.status.hazard = false) : i = .reset ∧ t.inputs = s.inputs := by
  rcases serveInput_cases hs with ⟨rfl, rfl⟩ | ⟨_, _, -, -, r, rfl⟩ | ⟨off, bits, w, -, -, rfl⟩
  · exact ⟨rfl, rfl⟩
  · simp [h] at ht
  · simp [hostWrite_keeps_hazard h] at ht

/-- Settles O6: the reset served in either engine state, then each agent of a step that might clear HAZARD. -/
theorem resetInputAbandonsAndOnlyItClearsHazard : Obligations.ResetInputAbandonsAndOnlyItClearsHazard := by
  refine ⟨fun s rest hin he => ?_, fun s t hs h ht => ?_⟩
  · rcases he with he | ⟨pend, k, he⟩
    · rw [step_idle_input he hin]
      rfl
    · rw [step_waiting_input he hin]
      rfl
  · rcases step_cases hs with
      ⟨pend, k, i, -, -, hd, hx⟩ | ⟨pend, k, i, rest, -, hin, hx⟩ | ⟨i, rest, -, hin, hx⟩ | ⟨-, -, rfl⟩
    · have hkept := (exec_kept (wf_of_decode hd) hx).hazard
      simp [hkept, h] at ht
    · obtain ⟨rfl, hrest⟩ := serveInput_clears_hazard hx h ht
      exact ⟨rest, hin, hrest⟩
    · obtain ⟨rfl, hrest⟩ := serveInput_clears_hazard hx h ht
      exact ⟨rest, hin, hrest⟩
    · simp [h] at ht

/-! ### Host accesses while BUSY (R295, R296) -/

/-- Settles O12: the write is served, is no bus error, and finds the block BUSY. -/
theorem writeWhileBusyOnlySetsHazard : Obligations.WriteWhileBusyOnlySetsHazard := by
  intro s pend w k off rest he hoff ha hin
  have hbusy : busy { s with inputs := rest, eng := .busy pend k } = true := rfl
  rw [step_waiting_input he hin, serveInput_write_window { s with inputs := rest, eng := .busy pend k } hoff,
    hostWrite_aligned_busy hbusy ha]
  exact ⟨_, rfl⟩

/-- The flags of the STATUS word while BUSY: DONE, BUSY, CMD_ERR and HAZARD. -/
theorem busyStatusWord_flags (s : State) (v : Word) :
    (busyStatusWord s v).getLsbD 0 = false ∧ (busyStatusWord s v).getLsbD 1 = true ∧
      (busyStatusWord s v).getLsbD 2 = false ∧ (busyStatusWord s v).getLsbD 3 = s.status.hazard := by
  simp only [busyStatusWord, BitVec.getLsbD_append]
  simp

/-- The open bits of the STATUS word while BUSY are the draw's. -/
theorem busyStatusWord_open (s : State) (v : Word) {i : Nat} (hlo : 8 ≤ i) (hhi : i < 20) :
    (busyStatusWord s v).getLsbD i = v.getLsbD i := by
  simp only [busyStatusWord, BitVec.getLsbD_append, BitVec.getLsbD_extractLsb']
  grind

theorem registerRead_status_busy {s : State} (hb : busy s = true) :
    registerRead s 0x004 = busyStatusWord s (Config.freeWord s.draws) := by
  rw [registerRead_status, if_pos hb]

theorem registerRead_result_busy {s : State} (hb : busy s = true) {off : Nat}
    (hoff : off ∈ [0x00C, 0x010, 0x014, 0x018, 0x01C]) : registerRead s off = Config.freeWord s.draws := by
  simp only [List.mem_cons, List.not_mem_nil, or_false] at hoff
  rcases hoff with rfl | rfl | rfl | rfl | rfl
  · rw [registerRead_hdrCorr, if_pos hb]
  · rw [registerRead_payCorr, if_pos hb]
  · rw [registerRead_payloadCount, if_pos hb]
  · rw [registerRead_fcs, if_pos hb]
  · rw [registerRead_outLen, if_pos hb]

theorem registerRead_out_busy {s : State} (hb : busy s = true) {off : Nat} (h : outBase ≤ off ∧ off < bufferEnd) :
    registerRead s off = Config.freeWord s.draws := by
  rw [registerRead_high s (by simp only [outBase] at h; omega), if_neg (by omega), if_pos h, if_pos hb]

/-- Settles O21, by what each offset reads as while BUSY; PEND is CMD by the invariant. -/
theorem readsWhileBusy : Obligations.ReadsWhileBusy := by
  intro s hb
  rw [registerRead_status_busy hb]
  obtain ⟨hdone, hbusy, hcmdErr, hhazard⟩ := busyStatusWord_flags s (Config.freeWord s.draws)
  refine ⟨⟨hdone, hbusy, hcmdErr, hhazard, fun i hlo hhi => busyStatusWord_open s _ hlo hhi⟩, registerRead_cmd s,
    fun hinv pend k he => (hinv.pendIsCmd pend k he).symm, registerRead_seed s, fun k hk => ?_,
    fun off hoff => registerRead_result_busy hb hoff, fun k hk => ?_, fun off hoff => registerRead_reserved s hoff⟩
  · exact registerRead_in s (by simp only [inBase, outBase]; omega)
  · exact registerRead_out_busy hb (by simp only [outBase, bufferEnd]; omega)

/-! ### Progress of a BUSY engine (R299) -/

/-- An input served while BUSY is the reset, which leaves the engine IDLE, or leaves the command in progress, the inputs
to come and the window as they are. -/
theorem serveInput_busy {i : Input} {s t : State} (hb : busy s = true) (hs : serveInput i s = .next t) :
    t.eng = .idle ∨ (t.eng = s.eng ∧ t.inputs = s.inputs ∧ t.par = s.par) := by
  rcases serveInput_cases hs with ⟨-, rfl⟩ | ⟨_, _, -, -, r, rfl⟩ | ⟨off, bits, w, -, -, rfl⟩
  · exact .inl rfl
  · exact .inr ⟨rfl, rfl, rfl⟩
  · rcases hostWrite_cases off bits w s with ⟨-, e⟩ | ⟨-, -, -, e⟩ | ⟨-, -, hidle, -⟩
    · exact e ▸ .inr ⟨rfl, rfl, rfl⟩
    · exact e ▸ .inr ⟨rfl, rfl, rfl⟩
    · simp [hb] at hidle

theorem run_succ {s t : State} (h : step s = .next t) (m : Nat) :
    Host.Core.run core (m + 1) s = Host.Core.run core m t := by
  simp only [Host.Core.run]
  rw [show core.step s = .next t from h]

theorem run_one {s t : State} (h : step s = .next t) : Host.Core.run core 1 s = .next t := run_succ h 0

/-- The engine's step leaves it IDLE (R35). -/
theorem step_engine_idle {s : State} {pend : Word} {k : Nat} {i : Instr} (he : s.eng = .busy pend k)
    (hturn : k = 0 ∨ s.inputs = []) (hd : decode pend = .ok i) : ∃ t, step s = .next t ∧ t.eng = .idle := by
  obtain ⟨t, hx, ht, -⟩ := everyCommandCompletes i s
  exact ⟨t, (step_engine he hturn hd).trans hx, ht⟩

/-- Settles O9, by induction on the wait: each input served counts it down or is the reset, and the engine acts at its
end, or before when no input is left. -/
theorem busyEngineEventuallyCompletes : Obligations.BusyEngineEventuallyCompletes := by
  intro s pend k he ⟨i, hd⟩ hwin
  induction k generalizing s with
  | zero =>
    obtain ⟨t, hs, ht⟩ := step_engine_idle he (.inl rfl) hd
    exact ⟨1, t, Nat.le_refl 1, run_one hs, ht⟩
  | succ k ih =>
    cases hin : s.inputs with
    | nil =>
      obtain ⟨t, hs, ht⟩ := step_engine_idle he (.inr hin) hd
      exact ⟨1, t, by omega, run_one hs, ht⟩
    | cons x rest =>
      rw [hin] at hwin
      obtain ⟨hxwin, hrest⟩ := List.forall_mem_cons.mp hwin
      obtain ⟨t, hx⟩ := serveInput_next (s := { s with inputs := rest, eng := .busy pend k }) hxwin
      have hs : step s = .next t := (step_waiting_input he hin).trans hx
      rcases serveInput_busy rfl hx with ht | ⟨heng, hinputs, hpar⟩
      · exact ⟨1, t, by omega, run_one hs, ht⟩
      · obtain ⟨m, u, hm, hrun, hu⟩ := ih t heng (by rw [hinputs, hpar]; exact hrest)
        exact ⟨m + 1, u, by omega, (run_succ hs m).trans hrun, hu⟩

end Sys2Proof.Machine
end
